-- ==== Sys2Proof/Word.lean ====
section
/-! DEFINITION. The values of 00_scope.md R7: a bit and an unsigned 8-bit byte. -/

namespace Sys2Proof

/-- A bit of the transport or of a flag; `true` is 1 (46 R110: "`true` as 1 and `false` as 0"). -/
abbrev Bit := Bool

/-- "`Byte` is an unsigned 8-bit value 0..255"; its `+` is modulo 256 and its `~~~` is `0xFF - b` (00 R7). -/
abbrev Byte := BitVec 8

end Sys2Proof
end

