-- ==== Sys2Proof/Config.lean ====
section
/-! DEFINITION. The elaboration parameters of 00_scope.md R5, with the values this hardware takes as `Config.default`,
and the constraint of R6 on the tags. They are constants of an instance (10 R11, R25); `State` carries them in the
field `cfg`, which no step writes (log entry 3). The spec leaves no value undefined, so there is no free value. -/

namespace Sys2Proof

/-- What a completed frame of fewer than two payload bytes draws (45 R92). -/
inductive RuntPolicy where
  | nack
  | drop
  | fault
deriving DecidableEq, Repr

/-- The parameter RESP_SEQ (00 R5, 45 R90): the SEQ byte of a response frame. `recvSeq` is the spec's default, the
responder's `recvSeq` when the response is built. The spec names no other setting; `fixed q`, a constant byte, is the
model's (DESIGN CHOICE, log entry 5: safe at the default). -/
inductive RespSeq where
  | recvSeq
  | fixed (q : Byte)
deriving DecidableEq, Repr

/-- The parameters of 00 R5. `rxBufDepth = none` is the unbounded receive buffer. `seqWidth` is SEQ_WIDTH: the sequence
counters count modulo 2 to that power (`nextSeq`, log entry 4). -/
structure Config where
  start         : Byte
  stop          : Byte
  escape        : Byte
  response      : Byte
  nresponse     : Byte
  maxFrameSize  : Nat
  maxAttempts   : Nat
  seqWidth      : Nat
  initSendSeq   : Byte
  initRecvSeq   : Byte
  respSeq       : RespSeq
  runtPolicy    : RuntPolicy
  rxBufDepth    : Option Nat
  sendLenMax    : Nat
deriving DecidableEq, Repr

/-- The values this hardware takes (00 R5, the column "default"). -/
def Config.default : Config where
  start         := 0x7B
  stop          := 0x7D
  escape        := 0x5C
  response      := 0x7E
  nresponse     := 0x81
  maxFrameSize  := 8
  maxAttempts   := 10
  seqWidth      := 8
  initSendSeq   := 0
  initRecvSeq   := 0
  respSeq       := .recvSeq
  runtPolicy    := .nack
  rxBufDepth    := none
  sendLenMax    := 65535

/-- The reserved tag set (00 R6, 30 R47). -/
def Config.tags (cfg : Config) : List Byte :=
  [cfg.start, cfg.stop, cfg.escape, cfg.response, cfg.nresponse]

/-- What a model that takes the parameters as arguments "must assume" (00 R6): the five tags pairwise distinct, the
fifth the complement of RESPONSE, none its own complement, neither parity byte a tag; and counts for which the block
makes progress: a chunk holds a byte, a frame is sent at least once, a SEND fits its 16-bit length field (30 R58); and
a sequence number has at least one bit and fits the frame's one SEQ byte (30 R48), the initial ones among them. -/
abbrev Config.wf (cfg : Config) : Prop :=
  cfg.tags.Nodup ∧ cfg.nresponse = ~~~ cfg.response ∧ (∀ t ∈ cfg.tags, t ≠ ~~~ t) ∧
  (0x00 : Byte) ∉ cfg.tags ∧ (0x01 : Byte) ∉ cfg.tags ∧
  1 ≤ cfg.maxFrameSize ∧ 1 ≤ cfg.maxAttempts ∧ cfg.sendLenMax < 65536 ∧
  1 ≤ cfg.seqWidth ∧ cfg.seqWidth ≤ 8 ∧ cfg.initSendSeq.toNat < 2 ^ cfg.seqWidth ∧
  cfg.initRecvSeq.toNat < 2 ^ cfg.seqWidth

end Sys2Proof
end

