-- ==== Sys2Proof/Syntax.lean ====
section
/-! DEFINITION. The operations of the block: one constructor of `Instr` for each of the 24 rows of
spec/opcode_table.json, with the operands the row's rule gives it. -/

namespace Sys2Proof

/-- A response signal (30 R49). The signal a frame carries, NONE, ACK or NACK, is an `Option Signal` (10 R18). -/
inductive Signal where
  | ack
  | nack
deriving DecidableEq, Repr

/-- The scan states between bytes (43 R74, 41 R66). `Done` is the result COMPLETE. -/
inductive ScanState where
  | seeking
  | inFrame
deriving DecidableEq, Repr

/-- Which table of codes a word belongs to: the formats `event`, `function` and `wire_byte` of opcode_table.json
(30 R57, R52). -/
inductive Port where
  | event
  | function
  | wire
deriving DecidableEq, Repr

/-- The rows of opcode_table.json, in its order. -/
inductive Instr where
  | reset
  | deliver (c : Bit)
  | send (p : List Byte)
  | step
  | baPush (c : Bit)
  | escIsReserved (b : Byte)
  | escStuff (p : List Byte)
  | escClassify (b : Byte) (st : ScanState)
  | feEncode (p : List Byte) (q : Byte)
  | feEncodeResponse (sig : Signal) (q : Byte)
  | feTransmit (f : List Byte)
  | fdTryExtract (buf : List Byte)
  | pcParity (bs : List Byte)
  | pcCheck (r : Byte) (data : List Byte)
  | arqOnSendRequested (c : List Byte)
  | arqRetryStep
  | arqSendResponse (sig : Signal)
  | arqOnFrameReceived (x : List Byte) (sig : Option Signal)
  | wireEscape (next : Option Byte)
  | wireSignalAck
  | wireSignalNack
  | wireStop
  | wireStart
  | wireData (v : Byte)
deriving DecidableEq, Repr

/-- The format of an instruction's row. -/
def Instr.port : Instr → Port
  | .reset | .deliver _ | .send _ | .step => .event
  | .baPush _ | .escIsReserved _ | .escStuff _ | .escClassify _ _ | .feEncode _ _ | .feEncodeResponse _ _
  | .feTransmit _ | .fdTryExtract _ | .pcParity _ | .pcCheck _ _ | .arqOnSendRequested _ | .arqRetryStep
  | .arqSendResponse _ | .arqOnFrameReceived _ _ => .function
  | .wireEscape _ | .wireSignalAck | .wireSignalNack | .wireStop | .wireStart | .wireData _ => .wire

end Sys2Proof
end

