-- ==== Sys2Proof/WellFormed.lean ====
section
/-! DEFINITION. Which instructions a word can present: list operands fit their 16-bit length (30 R58, log entry 7), a
payload to be framed holds at most MAX_FRAME_SIZE bytes (42 R69, 45 R88), and a DATA byte is no tag (30 R52). -/

namespace Sys2Proof

/-- A byte list that a 16-bit length field can announce (30 R58). -/
def fitsLength (bs : List Byte) : Bool :=
  decide (bs.length < 65536)

/-- A payload the encoder's operand can hold (42 R69: "at most" MAX_FRAME_SIZE bytes). -/
def fitsFrame (cfg : Config) (p : List Byte) : Bool :=
  decide (p.length ≤ cfg.maxFrameSize)

/-- The instruction can be presented as a word. R88 gives a chunk at least one byte; the empty chunk is admitted
(DESIGN CHOICE, log entry 11). -/
def Instr.wf (cfg : Config) : Instr → Bool
  | .reset => true
  | .deliver _ => true
  | .send p => fitsLength p
  | .step => true
  | .baPush _ => true
  | .escIsReserved _ => true
  | .escStuff p => fitsLength p
  | .escClassify _ _ => true
  | .feEncode p _ => fitsLength p && fitsFrame cfg p
  | .feEncodeResponse _ _ => true
  | .feTransmit f => fitsLength f
  | .fdTryExtract buf => fitsLength buf
  | .pcParity bs => fitsLength bs
  | .pcCheck _ data => fitsLength data
  | .arqOnSendRequested c => fitsLength c && fitsFrame cfg c
  | .arqRetryStep => true
  | .arqSendResponse _ => true
  | .arqOnFrameReceived x _ => fitsLength x
  | .wireEscape _ => true
  | .wireSignalAck => true
  | .wireSignalNack => true
  | .wireStop => true
  | .wireStart => true
  | .wireData v => decide (v ∉ cfg.tags)

end Sys2Proof
end

