-- ==== Sys2Proof/Decode.lean ====
section
/-! DEFINITION. From words to instructions and back: the operation codes of 30_encoding.md R57 and the byte classes of
R52. Decoding is total on every byte list and rejects by name. The event codes and SEND's operands are the spec's
(R57, R58); how a function word carries its operands is the model's (DESIGN CHOICE, log entry 7): after the op byte
come the one-byte operands, then the byte list behind a 16-bit big-endian length, as SEND carries its own. -/

namespace Sys2Proof

/-- Why a byte list is no word of the port it is presented to. -/
inductive DecodeError where
  /-- No byte is there. -/
  | noWord
  /-- R58: "An op byte other than `0x00`, `0x02`, `0x03`, `0x10` and `0x20` is refused." -/
  | notAnEventCode (op : Byte)
  /-- The op byte of a word at the function port is no function code of R57. -/
  | notAFunctionCode (op : Byte)
  /-- R58: fewer bytes than the word announces: "not a complete word". -/
  | incompleteWord
  /-- An operand byte of a function word that stands for no operand (log entry 7). -/
  | notAnOperand (b : Byte)
  /-- The instruction is not well-formed: a payload over MAX_FRAME_SIZE "cannot be presented" (42 R69). -/
  | notWellFormed
deriving DecidableEq, Repr

/-- What a decoder answers: an instruction and the bytes after its word, or a named rejection. -/
abbrev Decoded := Except DecodeError (Instr × List Byte)

/-! ## Operands -/

/-- A byte list behind its 16-bit length, "big-endian: high byte first" (R58). -/
def withList (mk : List Byte → Instr) : List Byte → Decoded
  | hi :: lo :: rest =>
    let n := 256 * hi.toNat + lo.toNat
    if n ≤ rest.length then .ok (mk (rest.take n), rest.drop n) else .error .incompleteWord
  | _ => .error .incompleteWord

/-- One byte operand. -/
def withByte (mk : Byte → List Byte → Decoded) : List Byte → Decoded
  | b :: rest => mk b rest
  | [] => .error .incompleteWord

/-- A bit operand: byte 00 or 01. -/
def bitOperand (b : Byte) : Except DecodeError Bit :=
  if b = 0x00 then .ok false else if b = 0x01 then .ok true else .error (.notAnOperand b)

/-- A scan state operand: 00 SEEKING, 01 IN_FRAME. -/
def scanStateOperand (b : Byte) : Except DecodeError ScanState :=
  if b = 0x00 then .ok .seeking else if b = 0x01 then .ok .inFrame else .error (.notAnOperand b)

/-- A signal to send: 00 ACK, 01 NACK. -/
def signalOperand (b : Byte) : Except DecodeError Signal :=
  if b = 0x00 then .ok .ack else if b = 0x01 then .ok .nack else .error (.notAnOperand b)

/-- A frame's signal: 00 NONE, 01 ACK, 02 NACK. -/
def frameSignalOperand (b : Byte) : Except DecodeError (Option Signal) :=
  if b = 0x00 then .ok none else if b = 0x01 then .ok (some .ack)
  else if b = 0x02 then .ok (some .nack) else .error (.notAnOperand b)

/-! ## The three ports -/

/-- The codes of kind `event` (R57), the only ones the command port accepts (R58). -/
def decodeEvent : List Byte → Decoded
  | [] => .error .noWord
  | op :: rest =>
    if op = 0x00 then .ok (.reset, rest)
    else if op &&& 0xFE = 0x02 then .ok (.deliver (op.getLsbD 0), rest)
    else if op = 0x10 then withList .send rest
    else if op = 0x20 then .ok (.step, rest)
    else .error (.notAnEventCode op)

/-- The codes of kind `function` (R57). -/
def decodeFunction : List Byte → Decoded
  | [] => .error .noWord
  | op :: rest =>
    if op = 0x40 then withByte (fun b r => (bitOperand b).map fun c => (.baPush c, r)) rest
    else if op = 0x48 then withByte (fun b r => .ok (.escIsReserved b, r)) rest
    else if op = 0x49 then withList .escStuff rest
    else if op = 0x4A then
      withByte (fun b => withByte fun t r => (scanStateOperand t).map fun st => (.escClassify b st, r)) rest
    else if op = 0x50 then withByte (fun q => withList fun p => .feEncode p q) rest
    else if op = 0x51 then
      withByte (fun t => withByte fun q r => (signalOperand t).map fun sig => (.feEncodeResponse sig q, r)) rest
    else if op = 0x52 then withList .feTransmit rest
    else if op = 0x58 then withList .fdTryExtract rest
    else if op = 0x60 then withList .pcParity rest
    else if op = 0x61 then withByte (fun r => withList fun data => .pcCheck r data) rest
    else if op = 0x68 then withList .arqOnSendRequested rest
    else if op = 0x69 then .ok (.arqRetryStep, rest)
    else if op = 0x6A then withByte (fun t r => (signalOperand t).map fun sig => (.arqSendResponse sig, r)) rest
    else if op = 0x6B then
      withByte (fun t r => (frameSignalOperand t).bind fun sig => withList (fun x => .arqOnFrameReceived x sig) r) rest
    else .error (.notAFunctionCode op)

/-- The byte classes of R52, by the first row that matches; the state condition of the signal rows is part of their
meaning. An ESCAPE takes the following byte with it, if one is there (43 R75). -/
def decodeWire (cfg : Config) : List Byte → Decoded
  | [] => .error .noWord
  | b :: rest =>
    if b = cfg.escape then
      match rest with
      | v :: rest' => .ok (.wireEscape (some v), rest')
      | [] => .ok (.wireEscape none, [])
    else if b = cfg.response then .ok (.wireSignalAck, rest)
    else if b = cfg.nresponse then .ok (.wireSignalNack, rest)
    else if b = cfg.stop then .ok (.wireStop, rest)
    else if b = cfg.start then .ok (.wireStart, rest)
    else .ok (.wireData b, rest)

/-- The word at the front of what is presented to a port, before the check that it can be presented. -/
def decodeRaw (cfg : Config) : Port → List Byte → Decoded
  | .event, bs => decodeEvent bs
  | .function, bs => decodeFunction bs
  | .wire, bs => decodeWire cfg bs

/-- THE DECODER: the word at the front of the bytes presented to a port. -/
def decode (cfg : Config) (port : Port) (bs : List Byte) : Decoded :=
  match decodeRaw cfg port bs with
  | .ok (i, rest) => if i.wf cfg then .ok (i, rest) else .error .notWellFormed
  | .error e => .error e

/-! ## The encoder -/

/-- A byte list behind its length, high byte first (R58). -/
def encodeList (bs : List Byte) : List Byte :=
  BitVec.ofNat 8 (bs.length / 256) :: BitVec.ofNat 8 bs.length :: bs

/-- A bit as an operand byte. -/
def encodeBit (c : Bit) : Byte := if c then 0x01 else 0x00

/-- A scan state as an operand byte. -/
def encodeScanState : ScanState → Byte
  | .seeking => 0x00
  | .inFrame => 0x01

/-- A signal to send as an operand byte. -/
def encodeSignal : Signal → Byte
  | .ack => 0x00
  | .nack => 0x01

/-- A frame's signal as an operand byte. -/
def encodeFrameSignal : Option Signal → Byte
  | none => 0x00
  | some .ack => 0x01
  | some .nack => 0x02

/-- THE ENCODER: the word of an instruction, from the tables of R57 and R52. -/
def encode (cfg : Config) : Instr → List Byte
  | .reset => [0x00]
  | .deliver c => [if c then 0x03 else 0x02]
  | .send p => 0x10 :: encodeList p
  | .step => [0x20]
  | .baPush c => [0x40, encodeBit c]
  | .escIsReserved b => [0x48, b]
  | .escStuff p => 0x49 :: encodeList p
  | .escClassify b st => [0x4A, b, encodeScanState st]
  | .feEncode p q => 0x50 :: q :: encodeList p
  | .feEncodeResponse sig q => [0x51, encodeSignal sig, q]
  | .feTransmit f => 0x52 :: encodeList f
  | .fdTryExtract buf => 0x58 :: encodeList buf
  | .pcParity bs => 0x60 :: encodeList bs
  | .pcCheck r data => 0x61 :: r :: encodeList data
  | .arqOnSendRequested c => 0x68 :: encodeList c
  | .arqRetryStep => [0x69]
  | .arqSendResponse sig => [0x6A, encodeSignal sig]
  | .arqOnFrameReceived x sig => 0x6B :: encodeFrameSignal sig :: encodeList x
  | .wireEscape (some v) => [cfg.escape, v]
  | .wireEscape none => [cfg.escape]
  | .wireSignalAck => [cfg.response]
  | .wireSignalNack => [cfg.nresponse]
  | .wireStop => [cfg.stop]
  | .wireStart => [cfg.start]
  | .wireData v => [v]

/-! ## The opcode table as data, and the host's reading of one word -/

/-- A row of opcode_table.json: its format, match and mask. -/
structure OpcodeRow where
  port : Port
  pattern : Byte
  mask : Byte
deriving DecidableEq, Repr

/-- opcode_table.json, row by row, in its order (the mnemonics are those of `Instr`, in the same order). -/
def opcodeTable : List OpcodeRow :=
  [⟨.event, 0x00, 0xFF⟩, ⟨.event, 0x02, 0xFE⟩, ⟨.event, 0x10, 0xFF⟩, ⟨.event, 0x20, 0xFF⟩] ++
  [⟨.function, 0x40, 0xFF⟩, ⟨.function, 0x48, 0xFF⟩, ⟨.function, 0x49, 0xFF⟩, ⟨.function, 0x4A, 0xFF⟩,
   ⟨.function, 0x50, 0xFF⟩, ⟨.function, 0x51, 0xFF⟩, ⟨.function, 0x52, 0xFF⟩, ⟨.function, 0x58, 0xFF⟩,
   ⟨.function, 0x60, 0xFF⟩, ⟨.function, 0x61, 0xFF⟩, ⟨.function, 0x68, 0xFF⟩, ⟨.function, 0x69, 0xFF⟩,
   ⟨.function, 0x6A, 0xFF⟩, ⟨.function, 0x6B, 0xFF⟩] ++
  [⟨.wire, 0x5C, 0xFF⟩, ⟨.wire, 0x7E, 0xFF⟩, ⟨.wire, 0x81, 0xFF⟩, ⟨.wire, 0x7D, 0xFF⟩, ⟨.wire, 0x7B, 0xFF⟩,
   ⟨.wire, 0x00, 0x00⟩]

/-- A byte matches a row of the table. -/
def OpcodeRow.matchesByte (r : OpcodeRow) (b : Byte) : Bool := b &&& r.mask = r.pattern

/-- The format of the first row of the table that a word's first byte matches. The row WIRE.DATA matches every byte and
has the lowest priority, so a byte with an event or function row is read as that (log entry 14). -/
def tablePort (b : Byte) : Port :=
  match opcodeTable.find? (·.matchesByte b) with
  | some r => r.port
  | none => .wire

/-- The bytes of a word that the table numbers bit 0 least significant in its first byte: the second byte is bits
15 to 8, and so on. -/
def tableBytes : Nat → Nat → List Byte
  | 0, _ => []
  | n + 1, w => BitVec.ofNat 8 w :: tableBytes n (w / 256)

/-- A word of the table with the operand bytes it announces, all zero: enough for every length field it can hold. -/
def paddedBytes (nbits w : Nat) : List Byte :=
  let b1 := w / 256 % 256
  let b2 := w / 65536 % 256
  let b3 := w / 16777216 % 256
  tableBytes (nbits / 8) w ++ List.replicate (6 + 256 * (b1 + b2) + (b2 + b3)) 0

/-- The port at which the host's table word is presented. -/
def wordPort (w : Nat) : Port := tablePort (BitVec.ofNat 8 w)

/-- The host's question: the instruction the decoder reads from a word of the table. -/
def decodeTableWord (nbits w : Nat) : Option Instr :=
  match decode Config.default (wordPort w) (paddedBytes nbits w) with
  | .ok (i, _) => some i
  | .error _ => none

/-- The bytes of exactly that one instruction: the padding that the decoder does not take is left out. -/
def wordBytes (cfg : Config) (nbits w : Nat) : List Byte :=
  match decode cfg (wordPort w) (paddedBytes nbits w) with
  | .ok (_, rest) => (paddedBytes nbits w).take ((paddedBytes nbits w).length - rest.length)
  | .error _ => tableBytes (nbits / 8) w

end Sys2Proof
end

