-- ==== Sys2Proof/Machine/State.lean ====
section
/-! DEFINITION. The state of one link_layer_framer instance: the record of 10_state.md R11 and the two output records
of R23, with the elaboration parameters and the model's own fields for offering words and seeing results. Reset values:
70_reset_and_hazards.md R125. -/

namespace Sys2Proof.Machine

/-- "`ackStatus` has three values" (10 R17). -/
inductive AckStatus where
  | none
  | awaitingAck
  | acked
deriving DecidableEq, Repr

/-- The sequencer state, "the block's analogue of a program counter" (10 R21). R21 bounds k by 1 and MAX_ATTEMPTS;
here the bound is an invariant (Safety.lean). -/
inductive Seqr where
  | idle
  | chunk
  | attempted (k : Nat)
deriving DecidableEq, Repr

/-- The causes `fault` can hold (60 R114). -/
inductive FaultCause where
  | rxbufOverflow
  | runtFrame
deriving DecidableEq, Repr

/-- The byte classes of the decoder (41 R66). -/
inductive ByteClass where
  | esc
  | sigAck
  | sigNack
  | stopC
  | startC
  | data
deriving DecidableEq, Repr

/-- What a scan returns (43 R74). -/
inductive Extract where
  | incomplete
  | complete (payload : List Byte) (sig : Option Signal) (consumed : Nat)
deriving DecidableEq, Repr

/-- The locals of a scan (43 R74): scan state, payload, signal, and the index of the next byte. -/
structure Scan where
  st      : ScanState
  payload : List Byte
  sig     : Option Signal
  i       : Nat
deriving DecidableEq, Repr

/-- The first line of R74: "st <- SEEKING; payload <- []; sig <- NONE; i <- 0". -/
def Scan.begin : Scan := ⟨.seeking, [], none, 0⟩

/-- The value a function row returned, each under the type its rule gives it: `Option Byte` (R62), `Bool` (R64, R86),
`List Byte` (R65, R69, R70), a byte class (R66), a scan result (R74), `Bit` (R85). -/
inductive Ret where
  | nothing
  | optByte (v : Option Byte)
  | bool (v : Bool)
  | bytes (v : List Byte)
  | byteClass (v : ByteClass)
  | extract (v : Extract)
  | bit (v : Bit)
deriving DecidableEq, Repr

/-- The whole state. `cfg` is constant (log entry 3). `port` and `stream` are what the host has offered and the block
has not yet taken (log entry 1); `ret` and `scan` show what a function row returned and where a scan of single wire
bytes stands (log entries 8, 9). The rest is R11 and R23, field by field. -/
structure State where
  cfg               : Config
  bitq              : List Bit
  rxbuf             : List Byte
  sendbuf           : List Byte
  sendSeq           : Byte
  recvSeq           : Byte
  ackStatus         : AckStatus
  pendingSig        : Option Signal
  lastFrameSent     : Option (List Byte)
  lastResponseFrame : Option (List Byte)
  seqr              : Seqr
  fault             : Option FaultCause
  txlog             : List Bit
  clientlog         : List (List Byte)
  port              : Port
  stream            : List Byte
  ret               : Ret
  scan              : Scan
deriving DecidableEq, Repr

/-- Power-on: R125's values under given parameters, "with empty outputs" (R128), and nothing offered. -/
def State.powerOn (cfg : Config) : State where
  cfg               := cfg
  bitq              := []
  rxbuf             := []
  sendbuf           := []
  sendSeq           := cfg.initSendSeq
  recvSeq           := cfg.initRecvSeq
  ackStatus         := .none
  pendingSig        := none
  lastFrameSent     := none
  lastResponseFrame := none
  seqr              := .idle
  fault             := none
  txlog             := []
  clientlog         := []
  port              := .event
  stream            := []
  ret               := .nothing
  scan              := Scan.begin

/-- The machine right after reset, with the parameters this hardware takes (R125, R128). -/
def State.reset : State := State.powerOn Config.default

/-- What stops the machine for good. The block's own faults (60 R114) are not here: entering one is a next state. -/
inductive Fault where
  /-- Raised by ARQ.RETRY_STEP, and by STEP through it, when a frame is to be retransmitted and `lastFrameSent` is
  absent. R89: it "is always `SOME` here", so the rule gives no effect; no reachable state has it. Safe (log entry 12). -/
  | noStoredFrame
deriving DecidableEq, Repr

/-- Offers that have no step (60 R124). All are safe: the spec gives them none. -/
inductive Refusal where
  /-- An arm of `exec` that has no meaning yet. No arm is left so. Safe. -/
  | notModelled (mnemonic : String)
  /-- Raised by `step`: the bytes offered are no word of their port (30 R58). Safe. -/
  | badWord (e : DecodeError)
  /-- Raised by DELIVER, SEND and STEP while `fault` is set (60 R116), and by the function rows that write the block's
  state (log entry 10). Safe. -/
  | faulted
  /-- Raised by SEND while `seqr` is not IDLE (46 R101). Safe. -/
  | sendInProgress
  /-- Raised by SEND of more than SEND_LEN_MAX bytes (60 R124). Safe. -/
  | sendTooLong
  /-- Raised by STEP in IDLE: "no SEND in progress" (60 R124). Safe. -/
  | nothingToSend
  /-- Raised by FE.ENCODE and ARQ.ON_SEND_REQUESTED of more than MAX_FRAME_SIZE bytes (42 R69, 60 R124). Safe. -/
  | payloadTooLong
  /-- Raised by ARQ.RETRY_STEP presented by itself while `seqr` is not ATTEMPTED(k), which R89 presupposes. Safe (log
  entry 12). -/
  | noAttempt
deriving DecidableEq, Repr

/-- What an instruction answers. -/
abbrev Answer := Host.Outcome State Fault Refusal

end Sys2Proof.Machine
end

