-- ==== Sys2Proof/Machine/Operands.lean ====
section
/-! DEFINITION. Operand assembly: bits of bytes and bytes of bits (20 R32, R33; 30 R53), and chunks (46 R105). -/

namespace Sys2Proof.Machine

/-- `zext_8` (00 R7): a bit as a byte. -/
def zext8 (c : Bit) : Byte := if c then 0x01 else 0x00

/-- The bits of a byte in transmit order, "bit 7 first, bit 0 last" (20 R32). -/
def byteBits (b : Byte) : List Bit :=
  [b.getLsbD 7, b.getLsbD 6, b.getLsbD 5, b.getLsbD 4, b.getLsbD 3, b.getLsbD 2, b.getLsbD 1, b.getLsbD 0]

/-- The bits of a frame: byte 0 first, each byte most significant bit first (20 R32). -/
def frameBits (f : List Byte) : List Bit := f.flatMap byteBits

/-- A byte from its bits, the oldest the most significant (20 R33, 40 R62). -/
def byteOfBits (cs : List Bit) : Byte := cs.foldl (fun v c => v <<< 1 ||| zext8 c) 0

/-- The next chunk: "oldest bytes first" (46 R105). -/
def nextChunk (cfg : Config) (buf : List Byte) : List Byte := buf.take cfg.maxFrameSize

/-- What is left of the send buffer after a chunk (46 R105). -/
def afterChunk (cfg : Config) (buf : List Byte) : List Byte := buf.drop cfg.maxFrameSize

/-- A sequence number `n` later, modulo 2 to the power SEQ_WIDTH: modulo 256 at the default width (00 R5, R7; 10 R15,
R16). It stands in a byte, the SEQ byte of a frame, with the bits above SEQ_WIDTH zero (DESIGN CHOICE at other widths,
log entry 4). -/
def seqAfter (cfg : Config) (q : Byte) (n : Nat) : Byte := BitVec.ofNat 8 ((q.toNat + n) % 2 ^ cfg.seqWidth)

/-- `sendSeq <- sendSeq + 1` and `recvSeq <- recvSeq + 1` (45 R89, R96). -/
def nextSeq (cfg : Config) (q : Byte) : Byte := seqAfter cfg q 1

end Sys2Proof.Machine
end

