-- ==== Sys2Proof/Machine/Flags.lean ====
section
/-! DEFINITION. Parity (44 R85, R86) and the predicates over the ARQ flags and the sequencer (10 R26; 46 R101, R112;
60 R114). -/

namespace Sys2Proof.Machine

/-- `popcount(b)`: "the number of 1 bits in `b`" (00 R7). -/
def popcount (b : Byte) : Nat := (byteBits b).count true

/-- The set bits of a byte list together (44 R85). -/
def setBits : List Byte → Nat
  | [] => 0
  | b :: bs => popcount b + setBits bs

/-- PC.PARITY: "returns 1 if the count is odd, 0 if even" (R85). -/
def parity (bs : List Byte) : Bit := decide (setBits bs % 2 = 1)

/-- PC.CHECK: the received byte equals the recomputed bit zero-extended to 8 bits (R86). -/
def parityOk (r : Byte) (data : List Byte) : Bool := decide (r = zext8 (parity data))

/-- "this side currently has no frame outstanding": `lastFrameSent == NONE`, literally (10 R26). -/
def State.noFrameOutstanding (s : State) : Bool := s.lastFrameSent.isNone

/-- A SEND is in progress (10 R21). -/
def State.sending (s : State) : Bool := decide (s.seqr ≠ .idle)

/-- STEP is enabled (46 R101). -/
def State.stepEnabled (s : State) : Bool := s.fault.isNone && s.sending

/-- "A run is quiescent when `seqr = IDLE` ... and the host offers no event" (46 R112). -/
def State.quiescent (s : State) : Bool := !s.sending && s.stream.isEmpty

/-- The fault codes of R114. -/
def faultCode : Option FaultCause → Nat
  | none => 0
  | some .rxbufOverflow => 1
  | some .runtFrame => 2

/-- The next byte finds the receive buffer full: `len(s.rxbuf) == RX_BUF_DEPTH` (46 R103). -/
def State.rxbufFull (s : State) : Bool := decide (s.cfg.rxBufDepth = some s.rxbuf.length)

/-- The SEQ byte of a response built now (45 R90, the parameter RESP_SEQ). -/
def State.responseSeq (s : State) : Byte :=
  match s.cfg.respSeq with
  | .recvSeq => s.recvSeq
  | .fixed q => q

end Sys2Proof.Machine
end

