-- ==== Sys2Proof/Machine/Ops.lean ====
section
/-! DEFINITION. The named operations over the state: the output ports, fault entry and the way out of a fault, the
gate a fault closes, and returning a value. -/

namespace Sys2Proof.Machine

/-- `transmit(f)`: append the frame's bits to `txlog` (42 R71). -/
def transmit (f : List Byte) (s : State) : State := { s with txlog := s.txlog ++ frameBits f }

/-- `client_receive(p)`: append the payload to `clientlog` (46 R109). -/
def clientReceive (p : List Byte) (s : State) : State := { s with clientlog := s.clientlog ++ [p] }

/-- TAKING A FAULT, `raise Fault(c)` (60 R115): writes already made stay made, `fault <- SOME c`, nothing else is
saved and control goes nowhere. The caller's step ends with the state this gives. -/
def raiseFault (c : FaultCause) (s : State) : State := { s with fault := some c }

/-- RESET, the only way out of a fault (60 R117): the reset state, keeping the output records (46 R102), and the
parameters and the words still offered, which are no state of the block (log entry 17). -/
def resetState (s : State) : State :=
  { State.powerOn s.cfg with txlog := s.txlog, clientlog := s.clientlog, port := s.port, stream := s.stream }

/-- While `fault` is set there is no step (60 R116). -/
def unlessFaulted (s : State) (answer : Answer) : Answer :=
  match s.fault with
  | none => answer
  | some _ => .refused .faulted

/-- A function row hands back its value (log entry 8). -/
def returning (r : Ret) (s : State) : State := { s with ret := r }

end Sys2Proof.Machine
end

