-- ==== Sys2Proof/Machine/Escape.lean ====
section
/-! DEFINITION. byte_stuffer_escape_codec (41_byte_stuffer_escape_codec.md). Its operations read and write no state. -/

namespace Sys2Proof.Machine

/-- `ESC.IS_RESERVED(b)` (R64). -/
def isReserved (cfg : Config) (b : Byte) : Bool :=
  decide (b = cfg.start ∨ b = cfg.stop ∨ b = cfg.escape ∨ b = cfg.response ∨ b = cfg.nresponse)

/-- `ESC.STUFF(p)` (R65). -/
def stuff (cfg : Config) : List Byte → List Byte
  | [] => []
  | b :: p => if isReserved cfg b then cfg.escape :: b :: stuff cfg p else b :: stuff cfg p

/-- `ESC.CLASSIFY(b, st)` (R66): the first row of 30 R52 that matches. -/
def classify (cfg : Config) (b : Byte) (st : ScanState) : ByteClass :=
  if b = cfg.escape then .esc
  else if st = .inFrame ∧ b = cfg.response then .sigAck
  else if st = .inFrame ∧ b = cfg.nresponse then .sigNack
  else if b = cfg.stop then .stopC
  else if b = cfg.start then .startC
  else .data

/-- ESC.IS_RESERVED, opcode 48 (R64). -/
def execEscIsReserved (b : Byte) (s : State) : Answer := .next (returning (.bool (isReserved s.cfg b)) s)

/-- ESC.STUFF, opcode 49 (R65). -/
def execEscStuff (p : List Byte) (s : State) : Answer := .next (returning (.bytes (stuff s.cfg p)) s)

/-- ESC.CLASSIFY, opcode 4A (R66). -/
def execEscClassify (b : Byte) (st : ScanState) (s : State) : Answer :=
  .next (returning (.byteClass (classify s.cfg b st)) s)

end Sys2Proof.Machine
end

