-- ==== Sys2Proof/Machine/FrameDecoder.lean ====
section
/-! DEFINITION. frame_decoder (43_frame_decoder.md): the byte-class actions R75 to R79 over the locals of a scan, the
scan R74 built from them, and the rows that name them. -/

namespace Sys2Proof.Machine

/-- R75: the byte after an ESCAPE "is appended verbatim to the extracted payload, bypassing all tag interpretation". -/
def Scan.takeLiteral (v : Byte) (sc : Scan) : Scan := { sc with payload := sc.payload ++ [v], i := sc.i + 2 }

/-- R76: "record it as the response signal for this frame (not appended to payload)"; the last one wins. -/
def Scan.recordSignal (sig : Signal) (sc : Scan) : Scan := { sc with sig := some sig, i := sc.i + 1 }

/-- R77: all bytes "through and including this STOP are consumed". -/
def Scan.finish (sc : Scan) : Extract := .complete sc.payload sc.sig (sc.i + 1)

/-- R78: enter IN_FRAME; neither the payload nor the signal is cleared. -/
def Scan.enterFrame (sc : Scan) : Scan := { sc with st := .inFrame, i := sc.i + 1 }

/-- R79: "ordinary data byte — appended to the extracted payload", in either state. -/
def Scan.takeData (b : Byte) (sc : Scan) : Scan := { sc with payload := sc.payload ++ [b], i := sc.i + 1 }

/-- The loop of R74 over the bytes not yet scanned. -/
def scanFrom (cfg : Config) (sc : Scan) : List Byte → Extract
  | [] => .incomplete
  | b :: rest =>
    match classify cfg b sc.st with
    | .esc =>
      match rest with
      | [] => .incomplete
      | v :: rest' => scanFrom cfg (sc.takeLiteral v) rest'
    | .sigAck => scanFrom cfg (sc.recordSignal .ack) rest
    | .sigNack => scanFrom cfg (sc.recordSignal .nack) rest
    | .stopC => sc.finish
    | .startC => scanFrom cfg sc.enterFrame rest
    | .data => scanFrom cfg (sc.takeData b) rest

/-- `FD.TRY_EXTRACT(buf)` (R74): one scan from the front. It changes nothing. -/
def tryExtract (cfg : Config) (buf : List Byte) : Extract := scanFrom cfg Scan.begin buf

/-- FD.TRY_EXTRACT, opcode 58 (R74). -/
def execFdTryExtract (buf : List Byte) (s : State) : Answer :=
  .next (returning (.extract (tryExtract s.cfg buf)) s)

/-! The rows of format `wire_byte` act on `State.scan`, the locals of a scan whose bytes are presented one at a time.
A scan that ends hands its result to `ret`, and the next byte begins a new scan (log entry 9). -/

/-- The scan goes on with these locals. -/
def scanOn (sc : Scan) (s : State) : State := { s with scan := sc }

/-- The scan ends with this result, as R74's `return`. -/
def scanEnds (r : Extract) (s : State) : State := { s with scan := Scan.begin, ret := .extract r }

/-- R76 with its state condition: IN_FRAME records the signal; in SEEKING the byte is DATA. -/
def signalOrData (sig : Signal) (b : Byte) (sc : Scan) : Scan :=
  match sc.st with
  | .inFrame => sc.recordSignal sig
  | .seeking => sc.takeData b

/-- WIRE.ESCAPE, byte 5C (R75): without a following byte "extraction is incomplete". -/
def execWireEscape (next : Option Byte) (s : State) : Answer :=
  match next with
  | some v => .next (scanOn (s.scan.takeLiteral v) s)
  | none => .next (scanEnds .incomplete s)

/-- WIRE.SIGNAL_ACK, byte 7E (R76). -/
def execWireSignalAck (s : State) : Answer := .next (scanOn (signalOrData .ack s.cfg.response s.scan) s)

/-- WIRE.SIGNAL_NACK, byte 81 (R76). -/
def execWireSignalNack (s : State) : Answer := .next (scanOn (signalOrData .nack s.cfg.nresponse s.scan) s)

/-- WIRE.STOP, byte 7D (R77). -/
def execWireStop (s : State) : Answer := .next (scanEnds s.scan.finish s)

/-- WIRE.START, byte 7B (R78). -/
def execWireStart (s : State) : Answer := .next (scanOn s.scan.enterFrame s)

/-- WIRE.DATA, any other byte (R79). -/
def execWireData (v : Byte) (s : State) : Answer := .next (scanOn (s.scan.takeData v) s)

end Sys2Proof.Machine
end

