-- ==== Sys2Proof/Machine/ParityChecker.lean ====
section
/-! DEFINITION. parity_checker (44_parity_checker.md); `parity` and `parityOk` are in Flags.lean. -/

namespace Sys2Proof.Machine

/-- PC.PARITY, opcode 60 (R85). -/
def execPcParity (bs : List Byte) (s : State) : Answer := .next (returning (.bit (parity bs)) s)

/-- PC.CHECK, opcode 61 (R86). -/
def execPcCheck (r : Byte) (data : List Byte) (s : State) : Answer :=
  .next (returning (.bool (parityOk r data)) s)

end Sys2Proof.Machine
end

