-- ==== Sys2Proof/Machine/FrameEncoder.lean ====
section
/-! DEFINITION. frame_encoder (42_frame_encoder.md). -/

namespace Sys2Proof.Machine

/-- The data frame of payload `p` and sequence byte `q` (R69, 30 R48). SEQ and PARITY are not escaped (30 R55). -/
def dataFrame (cfg : Config) (p : List Byte) (q : Byte) : List Byte :=
  [cfg.start, q, zext8 (parity p)] ++ stuff cfg p ++ [cfg.stop]

/-- The signal byte of a response frame (30 R49). -/
def signalByte (cfg : Config) : Signal → Byte
  | .ack => cfg.response
  | .nack => cfg.nresponse

/-- `FE.ENCODE_RESPONSE(sig, q)` (R70): the signal byte is not escaped. -/
def responseFrame (cfg : Config) (sig : Signal) (q : Byte) : List Byte :=
  [cfg.start, q, zext8 (parity [signalByte cfg sig]), signalByte cfg sig, cfg.stop]

/-- "require len(p) <= MAX_FRAME_SIZE -- otherwise refused" (R69). -/
def ifFitsFrame (p : List Byte) (s : State) (answer : Answer) : Answer :=
  if p.length ≤ s.cfg.maxFrameSize then answer else .refused .payloadTooLong

/-- FE.ENCODE, opcode 50 (R69). -/
def execFeEncode (p : List Byte) (q : Byte) (s : State) : Answer :=
  ifFitsFrame p s (.next (returning (.bytes (dataFrame s.cfg p q)) s))

/-- FE.ENCODE_RESPONSE, opcode 51 (R70). -/
def execFeEncodeResponse (sig : Signal) (q : Byte) (s : State) : Answer :=
  .next (returning (.bytes (responseFrame s.cfg sig q)) s)

/-- FE.TRANSMIT, opcode 52 (R71). It writes `txlog`, so a fault closes it (log entry 10). -/
def execFeTransmit (f : List Byte) (s : State) : Answer := unlessFaulted s (.next (transmit f s))

end Sys2Proof.Machine
end

