-- ==== Sys2Proof/Machine/Arq.lean ====
section
/-! DEFINITION. arq_state_machine (45_arq_state_machine.md). -/

namespace Sys2Proof.Machine

/-! ## Send side -/

/-- `ARQ.ON_SEND_REQUESTED(c)` (R88): attempt 1 of a chunk. -/
def onSendRequested (c : List Byte) (s : State) : State :=
  transmit (dataFrame s.cfg c s.sendSeq)
    { s with lastFrameSent := some (dataFrame s.cfg c s.sendSeq), ackStatus := .awaitingAck }

/-- `ARQ.RETRY_STEP` in ATTEMPTED(k) (R89). The advance is "not gated on having actually received an ACK". -/
def retryStep (k : Nat) (s : State) : Answer :=
  if k < s.cfg.maxAttempts ∧ s.ackStatus ≠ .acked then
    match s.lastFrameSent with
    | some f => .next (transmit f { s with seqr := .attempted (k + 1) })
    | none => .fault .noStoredFrame
  else .next { s with sendSeq := nextSeq s.cfg s.sendSeq, seqr := .chunk }

/-! ## Responses -/

/-- The response frame the block would build now (R90). -/
def State.response (s : State) (sig : Signal) : List Byte := responseFrame s.cfg sig s.responseSeq

/-- `ARQ.SEND_RESPONSE(sig)` (R90). -/
def sendResponse (sig : Signal) (s : State) : State :=
  transmit (s.response sig) { s with lastResponseFrame := some (s.response sig) }

/-! ## Receive side -/

/-- The runt branch (R92). -/
def onRunt (s : State) : State :=
  match s.cfg.runtPolicy with
  | .nack => sendResponse .nack s
  | .drop => s
  | .fault => raiseFault .runtFrame s

/-- Step 3, a NACK (R95): "implement exactly this literal condition". -/
def onNack (s : State) : State :=
  if s.noFrameOutstanding then
    match s.lastResponseFrame with
    | some r => transmit r s
    | none => s
  else s

/-- Step 4 (R96, R97): deliver, advance, acknowledge; or NACK what is out of sequence. -/
def onData (peerSeq : Byte) (data : List Byte) (s : State) : State :=
  if peerSeq = s.recvSeq then
    sendResponse .ack { clientReceive data s with recvSeq := nextSeq s.cfg s.recvSeq }
  else sendResponse .nack s

/-- The decision order of R91 after the runt test, on the frame's fields (30 R54) and the pending signal. -/
def frameDecision (peerSeq peerPar : Byte) (data : List Byte) (s : State) : State :=
  if parityOk peerPar data then
    match s.pendingSig with
    | some .ack => { s with ackStatus := .acked }
    | some .nack => onNack s
    | none => onData peerSeq data s
  else sendResponse .nack s

/-- `ARQ.ON_FRAME_RECEIVED(x, sig)` (R91). The signal is set after the runt test and consumed in every branch. -/
def onFrameReceived (x : List Byte) (sig : Option Signal) (s : State) : State :=
  match x with
  | peerSeq :: peerPar :: data =>
    { frameDecision peerSeq peerPar data { s with pendingSig := sig } with pendingSig := none }
  | _ => onRunt s

/-! ## The rows -/

/-- ARQ.ON_SEND_REQUESTED, opcode 68 (R88). -/
def execArqOnSendRequested (c : List Byte) (s : State) : Answer :=
  unlessFaulted s (ifFitsFrame c s (.next (onSendRequested c s)))

/-- ARQ.RETRY_STEP, opcode 69 (R89); its rule presupposes `seqr = ATTEMPTED(k)` (log entry 12). -/
def execArqRetryStep (s : State) : Answer :=
  unlessFaulted s
    (match s.seqr with
    | .attempted k => retryStep k s
    | .chunk => .refused .noAttempt
    | .idle => .refused .noAttempt)

/-- ARQ.SEND_RESPONSE, opcode 6A (R90). -/
def execArqSendResponse (sig : Signal) (s : State) : Answer := unlessFaulted s (.next (sendResponse sig s))

/-- ARQ.ON_FRAME_RECEIVED, opcode 6B (R91). -/
def execArqOnFrameReceived (x : List Byte) (sig : Option Signal) (s : State) : Answer :=
  unlessFaulted s (.next (onFrameReceived x sig s))

end Sys2Proof.Machine
end

