-- ==== Sys2Proof/Machine/BitAssembler.lean ====
section
/-! DEFINITION. bit_assembler (40_bit_assembler.md). -/

namespace Sys2Proof.Machine

/-- `BA.PUSH(c)` (R62): the new bit queue and, when it holds 8 bits, the byte they make. -/
def pushBit (bitq : List Bit) (c : Bit) : List Bit × Option Byte :=
  if (bitq ++ [c]).length = 8 then ([], some (byteOfBits (bitq ++ [c]))) else (bitq ++ [c], none)

/-- BA.PUSH, opcode 40 (R62). It writes `bitq`, so a fault closes it (log entry 10). -/
def execBaPush (c : Bit) (s : State) : Answer :=
  unlessFaulted s (.next (returning (.optByte (pushBit s.bitq c).2) { s with bitq := (pushBit s.bitq c).1 }))

end Sys2Proof.Machine
end

