-- ==== Sys2Proof/Machine/Framer.lean ====
section
/-! DEFINITION. link_layer_framer, the top level (46_link_layer_framer.md): the four events of R101. -/

namespace Sys2Proof.Machine

/-- The scan that follows an appended byte (R103): a COMPLETE result drains the consumed prefix and is processed. -/
def scanReceived (s : State) : State :=
  match tryExtract s.cfg s.rxbuf with
  | .incomplete => s
  | .complete x sig n => onFrameReceived x sig { s with rxbuf := s.rxbuf.drop n }

/-- A completed byte reaches the receive buffer, or overflows it (R103). -/
def receiveByte (v : Byte) (s : State) : State :=
  if s.rxbufFull then raiseFault .rxbufOverflow s
  else scanReceived { s with rxbuf := s.rxbuf ++ [v] }

/-- `LL.DELIVER(c)` (R103). -/
def deliverBit (c : Bit) (s : State) : State :=
  match pushBit s.bitq c with
  | (q, none) => { s with bitq := q }
  | (q, some v) => receiveByte v { s with bitq := q }

/-- `LL.STEP` in CHUNK (R105). -/
def chunkStep (s : State) : State :=
  if s.sendbuf = [] then { s with seqr := .idle }
  else
    { onSendRequested (nextChunk s.cfg s.sendbuf) { s with sendbuf := afterChunk s.cfg s.sendbuf } with
      seqr := .attempted 1 }

/-- RESET, opcode 00 (R102): always enabled. -/
def execReset (s : State) : Answer := .next (resetState s)

/-- DELIVER, opcodes 02 and 03 (R103). -/
def execDeliver (c : Bit) (s : State) : Answer := unlessFaulted s (.next (deliverBit c s))

/-- SEND, opcode 10 (R104), enabled as R101 says. -/
def execSend (p : List Byte) (s : State) : Answer :=
  unlessFaulted s
    (if s.seqr ≠ .idle then .refused .sendInProgress
    else if s.cfg.sendLenMax < p.length then .refused .sendTooLong
    else .next { s with sendbuf := s.sendbuf ++ p, seqr := .chunk })

/-- STEP, opcode 20 (R105), enabled as R101 says. -/
def execStep (s : State) : Answer :=
  unlessFaulted s
    (match s.seqr with
    | .idle => .refused .nothingToSend
    | .chunk => .next (chunkStep s)
    | .attempted k => retryStep k s)

end Sys2Proof.Machine
end

