-- ==== Sys2Proof/Machine/Dispatch.lean ====
section
/-! DEFINITION. One arm per constructor of `Instr`. -/

namespace Sys2Proof.Machine

def exec (i : Instr) (s : State) : Host.Outcome State Fault Refusal :=
  match i with
  | .reset => Sys2Proof.Machine.execReset s
  | .deliver c => Sys2Proof.Machine.execDeliver c s
  | .send p => Sys2Proof.Machine.execSend p s
  | .step => Sys2Proof.Machine.execStep s
  | .baPush c => Sys2Proof.Machine.execBaPush c s
  | .escIsReserved b => Sys2Proof.Machine.execEscIsReserved b s
  | .escStuff p => Sys2Proof.Machine.execEscStuff p s
  | .escClassify b st => Sys2Proof.Machine.execEscClassify b st s
  | .feEncode p q => Sys2Proof.Machine.execFeEncode p q s
  | .feEncodeResponse sig q => Sys2Proof.Machine.execFeEncodeResponse sig q s
  | .feTransmit f => Sys2Proof.Machine.execFeTransmit f s
  | .fdTryExtract buf => Sys2Proof.Machine.execFdTryExtract buf s
  | .pcParity bs => Sys2Proof.Machine.execPcParity bs s
  | .pcCheck r data => Sys2Proof.Machine.execPcCheck r data s
  | .arqOnSendRequested c => Sys2Proof.Machine.execArqOnSendRequested c s
  | .arqRetryStep => Sys2Proof.Machine.execArqRetryStep s
  | .arqSendResponse sig => Sys2Proof.Machine.execArqSendResponse sig s
  | .arqOnFrameReceived x sig => Sys2Proof.Machine.execArqOnFrameReceived x sig s
  | .wireEscape next => Sys2Proof.Machine.execWireEscape next s
  | .wireSignalAck => Sys2Proof.Machine.execWireSignalAck s
  | .wireSignalNack => Sys2Proof.Machine.execWireSignalNack s
  | .wireStop => Sys2Proof.Machine.execWireStop s
  | .wireStart => Sys2Proof.Machine.execWireStart s
  | .wireData v => Sys2Proof.Machine.execWireData v s

end Sys2Proof.Machine
end

