-- ==== Sys2Proof/Machine/Offer.lean ====
section
/-! DEFINITION. What the machine takes next: reading `port` and `stream` (log entries 1, 2). -/

namespace Sys2Proof.Machine

/-- What is next to run. -/
inductive Offer where
  /-- An instruction's word, and the bytes offered after it. -/
  | word (i : Instr) (rest : List Byte)
  /-- No word, and the internal STEP is enabled. -/
  | sequencer
  /-- No word, and no internal step. -/
  | quiet
  /-- Bytes that are no word of their port. -/
  | bad (e : DecodeError)
deriving DecidableEq, Repr

/-- What is next to run in a state. -/
def nextOffer (s : State) : Offer :=
  match s.stream with
  | [] => if s.stepEnabled then .sequencer else .quiet
  | b :: bs =>
    match decode s.cfg s.port (b :: bs) with
    | .ok (i, rest) => .word i rest
    | .error e => .bad e

end Sys2Proof.Machine
end

