-- ==== Sys2Proof/Machine/Step.lean ====
section
/-! DEFINITION. One step of the machine: the next word offered, or the internal sequencer step when none is. -/

namespace Sys2Proof.Machine

/-- One step (46 R101). A word at the front of `stream` is taken and run; a word with no meaning is refused (30 R58).
With none offered, the block "takes it by itself", the internal STEP, where that is enabled (R101, R108), and "simply
holds its state" (60 R123) where it is not (DESIGN CHOICE, log entry 2). -/
def step (s : State) : Host.Outcome State Fault Refusal :=
  match nextOffer s with
  | .word i rest => exec i { s with stream := rest }
  | .sequencer => exec .step s
  | .quiet => .next s
  | .bad e => .refused (.badWord e)

/-- The state in which exactly the table's word is offered next: its bytes are all of `stream`, and `port` is the one
its row belongs to (log entry 15). -/
def State.withFetchWord (s : State) (nbits w : Nat) : State :=
  { s with port := wordPort w, stream := wordBytes s.cfg nbits w }

end Sys2Proof.Machine
end

