-- ==== Sys2Proof/Machine/Program.lean ====
section
/-! DEFINITION. Test programs: the statements and pseudo-operations of 30_encoding.md R59 to R61. Their text is not
modelled, their meaning is. -/

namespace Sys2Proof.Machine

/-- A statement: a basic statement, `event`, and the pseudo-operations of R60. R59's basic statements are the four
events; that `event` takes a function or wire row as well, so that such a row can run inside a program, is the model's
choice (DESIGN CHOICE, log entry 18). -/
inductive Stmt where
  | event (i : Instr)
  | deliverByte (v : Byte)
  | deliverBytes (vs : List Byte)
  | deliverFrame (q : Byte) (p : List Byte)
  | deliverResponse (sig : Signal) (q : Byte)
  | run
  | steps (n : Nat)
deriving DecidableEq, Repr

/-- Go on from a next state; a fault or a refusal ends the run (R61: "the model gives it no result"). -/
def andThen (a : Answer) (f : State → Answer) : Answer :=
  match a with
  | .next s => f s
  | .fault r => .fault r
  | .refused r => .refused r

/-- Events applied in order; any row of the table may stand among them (DESIGN CHOICE, log entry 18). -/
def runEvents : List Instr → State → Answer
  | [], s => .next s
  | i :: is, s => andThen (exec i s) (runEvents is)

/-- DELIVER events of given bits. -/
def deliverEvents (bits : List Bit) : List Instr := bits.map .deliver

/-- Chunks still in the send buffer, the last one possibly short (46 R105). -/
def chunksLeft (s : State) : Nat := (s.sendbuf.length + s.cfg.maxFrameSize - 1) / s.cfg.maxFrameSize

/-- The most STEPs until IDLE: MAX_ATTEMPTS + 1 for each chunk and one to finish (46 R106), and what is left of the
current chunk's retry loop. -/
def stepBound (s : State) : Nat :=
  match s.seqr with
  | .idle => 0
  | .chunk => (s.cfg.maxAttempts + 1) * chunksLeft s + 1
  | .attempted k => (s.cfg.maxAttempts + 1 - k) + ((s.cfg.maxAttempts + 1) * chunksLeft s + 1)

/-- `STEP`, repeated while `seqr != IDLE`, at most `n` times (R60, `RUN`). -/
def runSequencer : Nat → State → Answer
  | 0, s => .next s
  | n + 1, s => if s.sending then andThen (exec .step s) (runSequencer n) else .next s

/-- What a statement does (R59, R60). DELIVER_FRAME of more than MAX_FRAME_SIZE bytes asks FE.ENCODE for a frame it
refuses (42 R69). -/
def runStmt (st : Stmt) (s : State) : Answer :=
  match st with
  | .event i => exec i s
  | .deliverByte v => runEvents (deliverEvents (byteBits v)) s
  | .deliverBytes vs => runEvents (deliverEvents (frameBits vs)) s
  | .deliverFrame q p => ifFitsFrame p s (runEvents (deliverEvents (frameBits (dataFrame s.cfg p q))) s)
  | .deliverResponse sig q => runEvents (deliverEvents (frameBits (responseFrame s.cfg sig q))) s
  | .run => runSequencer (stepBound s) s
  | .steps n => runEvents (List.replicate n .step) s

/-- A program: statements applied in order from a start state (R61). -/
def runProgram : List Stmt → State → Answer
  | [], s => .next s
  | st :: sts, s => andThen (runStmt st s) (runProgram sts)

/-- The event words of instructions, as bytes to offer (R59). -/
def eventWords (cfg : Config) (is : List Instr) : List Byte := is.flatMap (encode cfg)

/-- Events offered at the command port, behind what is already offered there. -/
def State.offerEvents (s : State) (is : List Instr) : State :=
  { s with port := .event, stream := s.stream ++ eventWords s.cfg is }

end Sys2Proof.Machine
end

