-- ==== Sys2Proof/Machine/Link.lean ====
section
/-! DEFINITION. Two instances joined by a transport (20_memory.md R45, R46; 60_exceptions.md R122): each has its own
whole state, and they share nothing but the bits. The transport may delay, lose, corrupt, duplicate or insert bits. -/

namespace Sys2Proof.Machine

/-- The two ends of a link. -/
inductive Side where
  | a
  | b
deriving DecidableEq, Repr

/-- Two instances, and how many bits of each one's `txlog` the transport has taken. -/
structure Link where
  a : State
  b : State
  takenA : Nat
  takenB : Nat
deriving DecidableEq, Repr

/-- What the transport does with the next bit one side has sent, or with no bit of it (R45). -/
inductive Carry where
  | pass
  | corrupt
  | lose
  | insert (c : Bit)
deriving DecidableEq, Repr

/-- One action on a link: an instruction at one side, or the transport carrying from one side to the other. The spec's
ends take events; that an end can also run a function or wire row is the model's (log entry 19). -/
inductive LinkAction where
  | here (side : Side) (i : Instr)
  | carry (source : Side) (what : Carry)
deriving DecidableEq, Repr

/-- The state at one end. -/
def Link.at (l : Link) : Side → State
  | .a => l.a
  | .b => l.b

/-- A new state at one end. -/
def Link.put (l : Link) (s : State) : Side → Link
  | .a => { l with a := s }
  | .b => { l with b := s }

/-- The other end. -/
def Side.other : Side → Side
  | .a => .b
  | .b => .a

/-- The next bit of a side's `txlog` that the transport has not taken. -/
def Link.pending (l : Link) : Side → Option Bit
  | .a => l.a.txlog[l.takenA]?
  | .b => l.b.txlog[l.takenB]?

/-- The transport has taken one more bit of a side. -/
def Link.take (l : Link) : Side → Link
  | .a => { l with takenA := l.takenA + 1 }
  | .b => { l with takenB := l.takenB + 1 }

/-- An instruction at one end; no result where it has no step. -/
def Link.run (l : Link) (side : Side) (i : Instr) : Option Link :=
  match exec i (l.at side) with
  | .next s => some (l.put s side)
  | .fault _ => none
  | .refused _ => none

/-- One action on a link (R46: the bits one side sent "are offered, in order" as the other's DELIVER events). -/
def Link.act (l : Link) : LinkAction → Option Link
  | .here side i => l.run side i
  | .carry source .pass =>
    match l.pending source with
    | some c => (l.take source).run source.other (.deliver c)
    | none => none
  | .carry source .corrupt =>
    match l.pending source with
    | some c => (l.take source).run source.other (.deliver !c)
    | none => none
  | .carry source .lose =>
    match l.pending source with
    | some _ => some (l.take source)
    | none => none
  | .carry source (.insert c) => l.run source.other (.deliver c)

/-- Both ends reset, nothing carried (70 R127, step 2). -/
def Link.reset : Link := ⟨State.reset, State.reset, 0, 0⟩

/-- Actions in order. -/
def Link.acts : Link → List LinkAction → Option Link
  | l, [] => some l
  | l, x :: xs =>
    match l.act x with
    | some l' => l'.acts xs
    | none => none

end Sys2Proof.Machine
end

