-- ==== Sys2Proof/Safety.lean ====
section
/-! DEFINITION. What the statements are said in terms of: the invariant of an instance, the parts of a state, and what
a safe run is. -/

namespace Sys2Proof.Machine

/-- What holds of an instance between steps, whatever its parameters. -/
structure State.Inv (s : State) : Prop where
  /-- The parameters meet 00 R6. -/
  cfg_wf : s.cfg.wf
  /-- "never holds more than 7 leftover bits between byte completions" (10 R12). -/
  bitq_short : s.bitq.length ≤ 7
  /-- "after every step, `FD.TRY_EXTRACT(rxbuf) = INCOMPLETE`" (43 R83). -/
  rxbuf_incomplete : tryExtract s.cfg s.rxbuf = .incomplete
  /-- The receive buffer is within its depth (10 R11, R13). -/
  rxbuf_fits : ∀ d, s.cfg.rxBufDepth = some d → s.rxbuf.length ≤ d
  /-- The send buffer "is empty whenever `seqr = IDLE`" (10 R14). -/
  idle_empty : s.seqr = .idle → s.sendbuf = []
  /-- The sequence counters are within SEQ_WIDTH bits (00 R5; log entry 4). -/
  send_seq_width : s.sendSeq.toNat < 2 ^ s.cfg.seqWidth
  recv_seq_width : s.recvSeq.toNat < 2 ^ s.cfg.seqWidth
  /-- The send buffer is within SEND_LEN_MAX (10 R11). -/
  sendbuf_fits : s.sendbuf.length ≤ s.cfg.sendLenMax
  /-- ATTEMPTED(k) has 1 ≤ k ≤ MAX_ATTEMPTS and a stored frame (10 R21, 45 R89). -/
  attempt_legal : ∀ k, s.seqr = .attempted k → 1 ≤ k ∧ k ≤ s.cfg.maxAttempts ∧ s.lastFrameSent.isSome
  /-- A frame has been outstanding once one is stored: `ackStatus` is not NONE then (10 R17). -/
  outstanding : s.lastFrameSent.isSome → s.ackStatus ≠ .none
  /-- "Between steps it is therefore always `NONE`" (10 R18). -/
  signal_consumed : s.pendingSig = none
  /-- A stored data frame is 4 to 4 + 2·MAX_FRAME_SIZE bytes (10 R11, 30 R50). -/
  frame_size : ∀ f, s.lastFrameSent = some f → 4 ≤ f.length ∧ f.length ≤ 4 + 2 * s.cfg.maxFrameSize
  /-- A stored response frame is 5 bytes (10 R11, 30 R50). -/
  response_size : ∀ f, s.lastResponseFrame = some f → f.length = 5
  /-- RXBUF_OVERFLOW: the receive buffer "holds the `RX_BUF_DEPTH` bytes that filled it" (60 R114). -/
  overflow_full : s.fault = some .rxbufOverflow → s.cfg.rxBufDepth = some s.rxbuf.length
  /-- RUNT_FRAME: only with RUNT_POLICY = FAULT (60 R114). -/
  runt_policy : s.fault = some .runtFrame → s.cfg.runtPolicy = .fault

/-- The state the spec gives the block (10 R11, R23), without the words offered and the model's own results. -/
def State.block (s : State) : State :=
  { s with port := .event, stream := [], ret := .nothing, scan := Scan.begin }

/-- Parameters under which no fault can be raised (60 R114, the column "reachable with defaults"). -/
def faultFree (cfg : Config) : Prop := cfg.rxBufDepth = none ∧ cfg.runtPolicy ≠ .fault

/-- A run that has stopped well: a quiescent point without a fault (46 R112). -/
def State.successfulEnd (s : State) : Prop := s.quiescent = true ∧ s.fault = none

/-- The answer is a next state that satisfies `P`. -/
def answers (a : Answer) (P : State → Prop) : Prop := ∃ t, a = .next t ∧ P t

end Sys2Proof.Machine
end

