-- ==== Sys2Proof/Certificates/Slice0/Obligations.lean ====
section
/-! DEFINITION. The statements for the provers. Each docstring names the rule of spec/ it formalises; where a clause
rests on a choice of the model, the docstring names the log entry. -/

open Sys2Proof Sys2Proof.Machine

/-! ## Words -/

/-- DECODE AND ENCODE AGREE for every well-formed instruction, alone and at the front of a longer stream. A lone
ESCAPE is the one word that what follows it changes (43 R75), so it is stated alone. The operand encodings of the
function words are the model's (log entry 7). -/
def Obligations.DecodeOfEncodeIsTheInstruction : Prop :=
  ∀ (cfg : Config) (i : Instr), cfg.wf → i.wf cfg = true →
    decode cfg i.port (encode cfg i) = .ok (i, []) ∧
    (i ≠ .wireEscape none → ∀ rest, decode cfg i.port (encode cfg i ++ rest) = .ok (i, rest))

/-- EACH WORD HAS ONE MEANING: what the decoder takes off the front of a port's bytes is the encoding of the
instruction it answers, which is well-formed and of that port's format. -/
def Obligations.EncodeOfDecodeIsTheWord : Prop :=
  ∀ (cfg : Config) (port : Port) (bs rest : List Byte) (i : Instr),
    decode cfg port bs = .ok (i, rest) → i.port = port ∧ i.wf cfg = true ∧ encode cfg i ++ rest = bs

/-- 30 R58: the command port accepts the five event codes 00, 02, 03, 10 and 20 and no other, and keeps what follows a
word; SEND's length is high byte first; a SEND with fewer payload bytes than its length, or without a whole length, is
refused. The last clause, at whichever port the bytes stand: bytes that are no word have no step; that offers stand in
`stream` is the model's (log entry 1). -/
def Obligations.CommandPortAcceptsOnlyWholeEventWords : Prop :=
  (∀ (cfg : Config) (rest : List Byte),
    decode cfg .event (0x00 :: rest) = .ok (.reset, rest) ∧
    decode cfg .event (0x02 :: rest) = .ok (.deliver false, rest) ∧
    decode cfg .event (0x03 :: rest) = .ok (.deliver true, rest) ∧
    decode cfg .event (0x20 :: rest) = .ok (.step, rest)) ∧
  (∀ (cfg : Config) (op : Byte) (rest : List Byte), op ∉ [0x00, 0x02, 0x03, 0x10, 0x20] →
    decode cfg .event (op :: rest) = .error (.notAnEventCode op)) ∧
  (∀ (cfg : Config) (hi lo : Byte) (p rest : List Byte), p.length = 256 * hi.toNat + lo.toNat →
    decode cfg .event (0x10 :: hi :: lo :: (p ++ rest)) = .ok (.send p, rest)) ∧
  (∀ (cfg : Config) (hi lo : Byte) (p : List Byte), p.length < 256 * hi.toNat + lo.toNat →
    decode cfg .event (0x10 :: hi :: lo :: p) = .error .incompleteWord) ∧
  (∀ (cfg : Config) (hi : Byte), decode cfg .event [0x10] = .error .incompleteWord ∧
    decode cfg .event [0x10, hi] = .error .incompleteWord) ∧
  (∀ (s : State) (e : DecodeError), s.stream ≠ [] → decode s.cfg s.port s.stream = .error e →
    step s = .refused (.badWord e))

/-- 30 R56: "no byte value is illegal", every byte has a decoder action. In the model's form: whatever bytes stand at the
wire port, a step takes some of them. That bytes are presented at a wire port and taken by a step, also in a faulted
state, is the model's choice (log entries 1, 9, 10). -/
def Obligations.WirePortRefusesNoByte : Prop :=
  ∀ s : State, s.port = .wire → s.stream ≠ [] →
    answers (step s) fun t => ∃ n, 1 ≤ n ∧ t.stream = s.stream.drop n

/-- DECODING IS RIGHT on words written out from R57, R58 and R52: an event, a bit, a payload, a function, a tag and a
data byte. -/
def Obligations.WordsOfTheTableDecode : Prop :=
  decode Config.default .event [0x00] = .ok (.reset, []) ∧
  decode Config.default .event [0x03, 0x20] = .ok (.deliver true, [0x20]) ∧
  decode Config.default .event [0x10, 0x00, 0x02, 0x48, 0x69] = .ok (.send [0x48, 0x69], []) ∧
  decode Config.default .event [0x40] = .error (.notAnEventCode 0x40) ∧
  decode Config.default .function [0x69] = .ok (.arqRetryStep, []) ∧
  decode Config.default .wire [0x5C, 0x7D, 0x7D] = .ok (.wireEscape (some 0x7D), [0x7D]) ∧
  decode Config.default .wire [0x7D] = .ok (.wireStop, []) ∧
  decode Config.default .wire [0x41] = .ok (.wireData 0x41, [])

/-! ## The step -/

/-- A STEP RUNS THE DECODED INSTRUCTION: when the bytes offered decode to an instruction and a rest, the step is that
instruction in the state whose stream is the rest. That offers stand in `stream` is the model's (log entry 1). -/
def Obligations.StepRunsTheWordOffered : Prop :=
  ∀ (s : State) (i : Instr) (rest : List Byte),
    decode s.cfg s.port s.stream = .ok (i, rest) → step s = exec i { s with stream := rest }

/-- With nothing offered the block takes its internal STEP where R101 enables it, and otherwise holds its state (60
R123); the model's choice of when the internal step comes (log entry 2). -/
def Obligations.StepWithNothingOffered : Prop :=
  ∀ s : State, s.stream = [] →
    (s.fault = none ∧ s.seqr ≠ .idle → step s = exec .step s) ∧
    (¬(s.fault = none ∧ s.seqr ≠ .idle) → step s = .next s)

/-- 46 R101: RESET is always enabled; DELIVER, SEND and STEP are enabled exactly under the table's conditions, and an
event that is not enabled has no step. The premise says that an attempt has its stored frame, which R89 gives. -/
def Obligations.EventsAreEnabledAsTheTableSays : Prop :=
  ∀ s : State, (∀ k, s.seqr = .attempted k → s.lastFrameSent ≠ none) →
    (∃ t, exec .reset s = .next t) ∧
    (∀ c, if s.fault = none then ∃ t, exec (.deliver c) s = .next t else ∃ r, exec (.deliver c) s = .refused r) ∧
    (∀ p, if s.fault = none ∧ s.seqr = .idle ∧ p.length ≤ s.cfg.sendLenMax
      then ∃ t, exec (.send p) s = .next t else ∃ r, exec (.send p) s = .refused r) ∧
    (if s.fault = none ∧ s.seqr ≠ .idle then ∃ t, exec .step s = .next t else ∃ r, exec .step s = .refused r)

/-! ## Reset -/

/-- 70 R125: power-on and RESET put every field to the table's value; RESET keeps the output records, power-on has
them empty; the parameters are not reset. -/
def Obligations.ResetPutsTheResetState : Prop :=
  (let r := State.reset
   r.bitq = [] ∧ r.rxbuf = [] ∧ r.sendbuf = [] ∧ r.sendSeq = 0x00 ∧ r.recvSeq = 0x00 ∧ r.ackStatus = .none ∧
   r.pendingSig = none ∧ r.lastFrameSent = none ∧ r.lastResponseFrame = none ∧ r.seqr = .idle ∧ r.fault = none ∧
   r.txlog = [] ∧ r.clientlog = [] ∧ r.cfg = Config.default) ∧
  ∀ s : State, answers (exec .reset s) fun t =>
    t.bitq = [] ∧ t.rxbuf = [] ∧ t.sendbuf = [] ∧ t.sendSeq = s.cfg.initSendSeq ∧ t.recvSeq = s.cfg.initRecvSeq ∧
    t.ackStatus = .none ∧ t.pendingSig = none ∧ t.lastFrameSent = none ∧ t.lastResponseFrame = none ∧
    t.seqr = .idle ∧ t.fault = none ∧ t.txlog = s.txlog ∧ t.clientlog = s.clientlog ∧ t.cfg = s.cfg

/-! ## Receiving bits -/

/-- 40 R62: BA.PUSH appends the bit; the eighth bit makes a byte with the first-received bit the most significant and
empties the queue. -/
def Obligations.PushedBitsMakeBytesMsbFirst : Prop :=
  (∀ (q : List Bit) (c : Bit), q.length ≠ 7 → pushBit q c = (q ++ [c], none)) ∧
  ∀ c0 c1 c2 c3 c4 c5 c6 c7 : Bit, ∃ v : Byte,
    pushBit [c0, c1, c2, c3, c4, c5, c6] c7 = ([], some v) ∧
    v.toNat = c0.toNat * 128 + c1.toNat * 64 + c2.toNat * 32 + c3.toNat * 16 + c4.toNat * 8 + c5.toNat * 4 +
      c6.toNat * 2 + c7.toNat

/-- BA.PUSH as a row: it runs without a fault, writes the bit queue, returns the byte or none, and changes nothing
else. The place of the returned value is the model's (log entry 8). -/
def Obligations.BaPushCompletes : Prop :=
  ∀ (s : State) (c : Bit), s.fault = none →
    exec (.baPush c) s =
      .next { s with bitq := (pushBit s.bitq c).1, ret := .optByte (pushBit s.bitq c).2 }

/-- DELIVER (46 R103, 40 R62). A bit that completes no byte only lengthens the bit queue. The bit that completes a byte:
overflow when the receive buffer is full; else the byte is appended and scanned, an INCOMPLETE scan keeps the buffer,
and a COMPLETE one drains the consumed prefix and has the frame processed. -/
def Obligations.DeliverPushesAssemblesAndScans : Prop :=
  ∀ (s : State) (c : Bit), s.fault = none →
    (s.bitq.length ≠ 7 → exec (.deliver c) s = .next { s with bitq := s.bitq ++ [c] }) ∧
    ∀ v, pushBit s.bitq c = ([], some v) →
      (s.cfg.rxBufDepth = some s.rxbuf.length →
        exec (.deliver c) s = .next { s with bitq := [], fault := some .rxbufOverflow }) ∧
      (s.cfg.rxBufDepth ≠ some s.rxbuf.length → tryExtract s.cfg (s.rxbuf ++ [v]) = .incomplete →
        exec (.deliver c) s = .next { s with bitq := [], rxbuf := s.rxbuf ++ [v] }) ∧
      (∀ x sig n, s.cfg.rxBufDepth ≠ some s.rxbuf.length → tryExtract s.cfg (s.rxbuf ++ [v]) = .complete x sig n →
        exec (.deliver c) s =
          .next (onFrameReceived x sig { s with bitq := [], rxbuf := (s.rxbuf ++ [v]).drop n }))

/-- DELIVER's frame (46 R103): "It never writes `seqr`, `sendSeq`, `sendbuf` or `lastFrameSent`"; nor the parameters,
nor the model's own fields. It may write `ackStatus` (45 R94). -/
def Obligations.DeliverNeverWritesSeqrSendSeqSendbufLastFrameSent : Prop :=
  ∀ (s t : State) (c : Bit), exec (.deliver c) s = .next t →
    t.seqr = s.seqr ∧ t.sendSeq = s.sendSeq ∧ t.sendbuf = s.sendbuf ∧ t.lastFrameSent = s.lastFrameSent ∧
    t.cfg = s.cfg ∧ t.port = s.port ∧ t.stream = s.stream ∧ t.ret = s.ret ∧ t.scan = s.scan

/-- Eight bits in transmit order, from an aligned bit phase, are one received byte: what one instance sends is
reassembled unchanged (20 R32, R33). -/
def Obligations.DeliveredByteReachesTheBuffer : Prop :=
  ∀ (s : State) (v : Byte), s.fault = none → s.bitq = [] →
    runEvents (deliverEvents (byteBits v)) s = .next (receiveByte v s)

/-- The bit phase (40 R63): after any number of DELIVERs the bit queue is as long as that number modulo 8. -/
def Obligations.BitPhaseCountsDelivers : Prop :=
  ∀ (bits : List Bit) (s t : State), s.bitq = [] → runEvents (deliverEvents bits) s = .next t → t.fault = none →
    t.bitq.length = bits.length % 8

/-! ## Sending -/

/-- SEND (46 R104): in IDLE, without a fault and within SEND_LEN_MAX, the payload is queued and the sequencer goes to
CHUNK; nothing else changes. -/
def Obligations.SendQueuesThePayload : Prop :=
  ∀ (s : State) (p : List Byte), s.fault = none → s.seqr = .idle → p.length ≤ s.cfg.sendLenMax →
    exec (.send p) s = .next { s with sendbuf := s.sendbuf ++ p, seqr := .chunk }

/-- STEP in CHUNK (46 R105): an empty send buffer ends the SEND; otherwise the first MAX_FRAME_SIZE bytes go out as one
data frame with the current `sendSeq`, stored and awaiting its ACK. -/
def Obligations.StepInChunkSendsTheNextChunk : Prop :=
  ∀ s : State, s.fault = none → s.seqr = .chunk →
    (s.sendbuf = [] → exec .step s = .next { s with seqr := .idle }) ∧
    (s.sendbuf ≠ [] →
      let c := s.sendbuf.take s.cfg.maxFrameSize
      let f := [s.cfg.start, s.sendSeq, zext8 (parity c)] ++ stuff s.cfg c ++ [s.cfg.stop]
      exec .step s =
        .next { s with
          sendbuf := s.sendbuf.drop s.cfg.maxFrameSize, lastFrameSent := some f, ackStatus := .awaitingAck,
          txlog := s.txlog ++ frameBits f, seqr := .attempted 1 })

/-- ARQ.ON_SEND_REQUESTED (45 R88): the chunk is encoded with `sendSeq`, stored, awaits its ACK and is transmitted;
`sendSeq` is not written. That a fault closes the row, and that the empty chunk runs, is the model's (log entries 10, 11). -/
def Obligations.OnSendRequestedStoresAndTransmits : Prop :=
  ∀ (s : State) (c : List Byte), s.fault = none → c.length ≤ s.cfg.maxFrameSize →
    let f := [s.cfg.start, s.sendSeq, zext8 (parity c)] ++ stuff s.cfg c ++ [s.cfg.stop]
    exec (.arqOnSendRequested c) s =
      .next { s with lastFrameSent := some f, ackStatus := .awaitingAck, txlog := s.txlog ++ frameBits f }

/-- The retry iteration (45 R89), as STEP in ATTEMPTED(k) and as the row ARQ.RETRY_STEP: retransmit the stored frame
while attempts are left and no ACK was seen; otherwise advance `sendSeq` by one, whether or not an ACK came. The advance
is modulo 256 at the default SEQ_WIDTH of 8 (92 D7), and modulo 2 to the power SEQ_WIDTH at another, which is the model's
reading (log entry 4). -/
def Obligations.RetryStepRetransmitsOrAdvances : Prop :=
  ∀ (s : State) (k : Nat) (i : Instr), i = .step ∨ i = .arqRetryStep → s.fault = none → s.seqr = .attempted k →
    (∀ f, k < s.cfg.maxAttempts → s.ackStatus ≠ .acked → s.lastFrameSent = some f →
      exec i s = .next { s with txlog := s.txlog ++ frameBits f, seqr := .attempted (k + 1) }) ∧
    (s.cfg.maxAttempts ≤ k ∨ s.ackStatus = .acked →
      exec i s = .next { s with sendSeq := nextSeq s.cfg s.sendSeq, seqr := .chunk }) ∧
    (s.cfg.seqWidth = 8 → nextSeq s.cfg s.sendSeq = s.sendSeq + 1) ∧
    (s.cfg.wf → (nextSeq s.cfg s.sendSeq).toNat = (s.sendSeq.toNat + 1) % 2 ^ s.cfg.seqWidth)

/-- ARQ.RETRY_STEP has no step outside ATTEMPTED(k), which its rule presupposes, and stops where the frame it would
retransmit is absent, which R89 says never is (log entry 12). -/
def Obligations.RetryStepStopsOutsideItsRule : Prop :=
  ∀ s : State, s.fault = none →
    (s.seqr = .idle ∨ s.seqr = .chunk → exec .arqRetryStep s = .refused .noAttempt) ∧
    (∀ k, s.seqr = .attempted k → k < s.cfg.maxAttempts → s.ackStatus ≠ .acked → s.lastFrameSent = none →
      exec .arqRetryStep s = .fault .noStoredFrame ∧ exec .step s = .fault .noStoredFrame)

/-- The send side's frame (46 R105, 45 R88, R89): none of STEP, ARQ.RETRY_STEP and ARQ.ON_SEND_REQUESTED writes the
receive side, the client's record, the fault, the parameters or the model's own fields. -/
def Obligations.SendSideLeavesTheReceiveSideAlone : Prop :=
  ∀ (s t : State) (i : Instr) (c : List Byte), i = .step ∨ i = .arqRetryStep ∨ i = .arqOnSendRequested c →
    exec i s = .next t →
    t.bitq = s.bitq ∧ t.rxbuf = s.rxbuf ∧ t.recvSeq = s.recvSeq ∧ t.pendingSig = s.pendingSig ∧
    t.lastResponseFrame = s.lastResponseFrame ∧ t.fault = s.fault ∧ t.clientlog = s.clientlog ∧ t.cfg = s.cfg ∧
    t.port = s.port ∧ t.stream = s.stream ∧ t.ret = s.ret ∧ t.scan = s.scan

/-- THE COST OF A SEND under the fully synchronous host (46 R106, 70 R131): with m chunks it takes
(MAX_ATTEMPTS + 1)·m + 1 STEPs, transmits each chunk's frame MAX_ATTEMPTS times in order, and advances `sendSeq` by m,
modulo 256 at the default SEQ_WIDTH (other widths: log entry 4). -/
def Obligations.SynchronousSendCost : Prop :=
  ∀ (s : State) (p : List Byte), s.Inv → s.fault = none → s.seqr = .idle → p.length ≤ s.cfg.sendLenMax →
    let m := (p.length + s.cfg.maxFrameSize - 1) / s.cfg.maxFrameSize
    answers (runEvents (.send p :: List.replicate ((s.cfg.maxAttempts + 1) * m + 1) .step) s) fun t =>
      t.seqr = .idle ∧ t.sendbuf = [] ∧ t.sendSeq = seqAfter s.cfg s.sendSeq m ∧
      (s.cfg.seqWidth = 8 → t.sendSeq = s.sendSeq + BitVec.ofNat 8 m) ∧
      t.txlog = s.txlog ++ (List.range m).flatMap fun j =>
        (List.replicate s.cfg.maxAttempts
          (frameBits (dataFrame s.cfg ((p.drop (j * s.cfg.maxFrameSize)).take s.cfg.maxFrameSize)
            (seqAfter s.cfg s.sendSeq j)))).flatten

/-- Every STEP brings a SEND nearer its completion and no DELIVER sets it back, whatever the interleaving (46 R107,
R108): the STEPs still needed at most, `stepBound`, strictly fall and never rise. -/
def Obligations.EveryStepNearsCompletion : Prop :=
  ∀ s t : State, s.Inv →
    (exec .step s = .next t → stepBound t < stepBound s) ∧
    (∀ c, exec (.deliver c) s = .next t → stepBound t = stepBound s)

/-! ## Responses and received frames -/

/-- ARQ.SEND_RESPONSE (45 R90): the frame carries the responder's `recvSeq`, the default of RESP_SEQ (a constant byte
where RESP_SEQ is the model's other setting, log entry 5); it is stored and transmitted; nothing else changes. -/
def Obligations.SendResponseStoresAndTransmits : Prop :=
  ∀ (s : State) (sig : Signal), s.fault = none →
    let f := responseFrame s.cfg sig (match s.cfg.respSeq with | .recvSeq => s.recvSeq | .fixed q => q)
    exec (.arqSendResponse sig) s = .next { s with lastResponseFrame := some f, txlog := s.txlog ++ frameBits f }

/-- 45 R92, a payload under two bytes: a NACK, nothing, or the fault RUNT_FRAME, as RUNT_POLICY says; nothing is
delivered and `recvSeq`, `ackStatus` and `pendingSig` stay. The NACK's SEQ is RESP_SEQ (R90; log entry 5). -/
def Obligations.RuntIsHandledAsThePolicySays : Prop :=
  ∀ (s : State) (x : List Byte) (sig : Option Signal), s.fault = none → x.length < 2 →
    let f := responseFrame s.cfg .nack s.responseSeq
    exec (.arqOnFrameReceived x sig) s =
      .next (match s.cfg.runtPolicy with
        | .nack => { s with lastResponseFrame := some f, txlog := s.txlog ++ frameBits f }
        | .drop => s
        | .fault => { s with fault := some .runtFrame })

/-- 45 R93: a parity failure draws a NACK, whatever the signal; nothing is delivered and `recvSeq` and `ackStatus` are
unchanged. The NACK's SEQ is RESP_SEQ (R90; log entry 5). -/
def Obligations.ParityFailureIsNacked : Prop :=
  ∀ (s : State) (q r : Byte) (data : List Byte) (sig : Option Signal), s.fault = none →
    r ≠ zext8 (parity data) →
    let f := responseFrame s.cfg .nack s.responseSeq
    exec (.arqOnFrameReceived (q :: r :: data) sig) s =
      .next { s with lastResponseFrame := some f, txlog := s.txlog ++ frameBits f, pendingSig := none }

/-- 45 R94: an ACK sets `ackStatus` to ACKED whatever it was and whatever SEQ and data the frame carries; nothing is
sent and nothing delivered. -/
def Obligations.AckMarksAcked : Prop :=
  ∀ (s : State) (q : Byte) (data : List Byte), s.fault = none →
    exec (.arqOnFrameReceived (q :: zext8 (parity data) :: data) (some .ack)) s =
      .next { s with ackStatus := .acked, pendingSig := none }

/-- 45 R95: a NACK retransmits the stored response frame, unchanged, only while no data frame has ever been stored;
otherwise, or with no response stored, nothing happens. -/
def Obligations.NackRetransmitsOnlyTheLastResponse : Prop :=
  ∀ (s : State) (q : Byte) (data : List Byte), s.fault = none →
    exec (.arqOnFrameReceived (q :: zext8 (parity data) :: data) (some .nack)) s =
      .next (match s.lastFrameSent, s.lastResponseFrame with
        | none, some r => { s with txlog := s.txlog ++ frameBits r, pendingSig := none }
        | none, none => { s with pendingSig := none }
        | some _, _ => { s with pendingSig := none })

/-- 45 R96: a data frame in sequence is delivered to the client, advances `recvSeq` by one and is
acknowledged, the ACK carrying the advanced `recvSeq`, the default of RESP_SEQ (or the model's constant byte, log
entry 5). The advance is modulo 256 at the default SEQ_WIDTH (other widths: log entry 4). -/
def Obligations.InSequenceDataIsDeliveredAndAcked : Prop :=
  ∀ (s : State) (data : List Byte), s.fault = none →
    let f := responseFrame s.cfg .ack (match s.cfg.respSeq with | .recvSeq => nextSeq s.cfg s.recvSeq | .fixed q => q)
    exec (.arqOnFrameReceived (s.recvSeq :: zext8 (parity data) :: data) none) s =
      .next { s with
        clientlog := s.clientlog ++ [data], recvSeq := nextSeq s.cfg s.recvSeq, lastResponseFrame := some f,
        txlog := s.txlog ++ frameBits f, pendingSig := none } ∧
    (s.cfg.seqWidth = 8 → nextSeq s.cfg s.recvSeq = s.recvSeq + 1) ∧
    (s.cfg.wf → (nextSeq s.cfg s.recvSeq).toNat = (s.recvSeq.toNat + 1) % 2 ^ s.cfg.seqWidth)

/-- 45 R97: a duplicate or out-of-order data frame draws a NACK and is not delivered; `recvSeq` is unchanged.
The NACK's SEQ is RESP_SEQ (R90; log entry 5). -/
def Obligations.OutOfSequenceDataIsNacked : Prop :=
  ∀ (s : State) (q : Byte) (data : List Byte), s.fault = none → q ≠ s.recvSeq →
    let f := responseFrame s.cfg .nack s.responseSeq
    exec (.arqOnFrameReceived (q :: zext8 (parity data) :: data) none) s =
      .next { s with lastResponseFrame := some f, txlog := s.txlog ++ frameBits f, pendingSig := none }

/-- At most one response per received bit or frame (45 R98): what DELIVER or ARQ.ON_FRAME_RECEIVED appends to `txlog`
is nothing or one frame, and that frame is then the stored response frame. -/
def Obligations.AtMostOneResponsePerFrame : Prop :=
  ∀ (s t : State) (i : Instr), (∃ c, i = .deliver c) ∨ (∃ x sig, i = .arqOnFrameReceived x sig) →
    exec i s = .next t →
    t.txlog = s.txlog ∨ ∃ f, t.lastResponseFrame = some f ∧ t.txlog = s.txlog ++ frameBits f

/-! ## Functions and wire bytes as rows -/

/-- The rows that read no state and write none (R64, R65, R66, R70, R74, R85, R86 and, within its operand's size, R69)
run in every state and return their function's value. The place of the value is the model's (log entry 8), and so is
that they run in a faulted state too (log entry 10; 60 R116 enables only RESET there). -/
def Obligations.PureFunctionsReturnTheirValue : Prop :=
  ∀ s : State,
    (∀ b, exec (.escIsReserved b) s = .next { s with ret := .bool (isReserved s.cfg b) }) ∧
    (∀ p, exec (.escStuff p) s = .next { s with ret := .bytes (stuff s.cfg p) }) ∧
    (∀ b st, exec (.escClassify b st) s = .next { s with ret := .byteClass (classify s.cfg b st) }) ∧
    (∀ p q, p.length ≤ s.cfg.maxFrameSize →
      exec (.feEncode p q) s = .next { s with ret := .bytes (dataFrame s.cfg p q) }) ∧
    (∀ p q, s.cfg.maxFrameSize < p.length → exec (.feEncode p q) s = .refused .payloadTooLong) ∧
    (∀ sig q, exec (.feEncodeResponse sig q) s = .next { s with ret := .bytes (responseFrame s.cfg sig q) }) ∧
    (∀ buf, exec (.fdTryExtract buf) s = .next { s with ret := .extract (tryExtract s.cfg buf) }) ∧
    (∀ bs, exec (.pcParity bs) s = .next { s with ret := .bit (parity bs) }) ∧
    (∀ r data, exec (.pcCheck r data) s = .next { s with ret := .bool (parityOk r data) })

/-- 42 R71: FE.TRANSMIT appends 8 bits a byte to `txlog`, byte 0 first and bit 7 of each byte first, and writes nothing
else. That a fault closes the row is the model's (log entry 10). -/
def Obligations.TransmitAppendsBitsMsbFirst : Prop :=
  (∀ (s : State) (f : List Byte), s.fault = none →
    exec (.feTransmit f) s = .next { s with txlog := s.txlog ++ frameBits f }) ∧
  ∀ (f : List Byte), (frameBits f).length = 8 * f.length ∧
    ∀ (j k : Nat) (b : Byte), f[j]? = some b → k < 8 → (frameBits f)[8 * j + k]? = some (b.getLsbD (7 - k))

/-- The decoder's per-byte rows (43 R75 to R79) on the locals of a scan whose bytes come one at a time: what each does
to the scan state, the payload, the signal and the index, with the state condition of the signal bytes. Holding those
locals in the state is the model's (log entry 9), and so is that the rows run in a faulted state too (log entry 10; 60
R116 enables only RESET there). -/
def Obligations.WireBytesActOnTheScan : Prop :=
  ∀ s : State,
    (∀ v, exec (.wireEscape (some v)) s =
      .next { s with scan := { s.scan with payload := s.scan.payload ++ [v], i := s.scan.i + 2 } }) ∧
    (exec (.wireEscape none) s = .next { s with scan := Scan.begin, ret := .extract .incomplete }) ∧
    (s.scan.st = .inFrame →
      exec .wireSignalAck s = .next { s with scan := { s.scan with sig := some .ack, i := s.scan.i + 1 } } ∧
      exec .wireSignalNack s = .next { s with scan := { s.scan with sig := some .nack, i := s.scan.i + 1 } }) ∧
    (s.scan.st = .seeking →
      exec .wireSignalAck s = .next { s with
        scan := { s.scan with payload := s.scan.payload ++ [s.cfg.response], i := s.scan.i + 1 } } ∧
      exec .wireSignalNack s = .next { s with
        scan := { s.scan with payload := s.scan.payload ++ [s.cfg.nresponse], i := s.scan.i + 1 } }) ∧
    (exec .wireStop s = .next { s with
      scan := Scan.begin, ret := .extract (.complete s.scan.payload s.scan.sig (s.scan.i + 1)) }) ∧
    (exec .wireStart s = .next { s with scan := { s.scan with st := .inFrame, i := s.scan.i + 1 } }) ∧
    (∀ v, exec (.wireData v) s =
      .next { s with scan := { s.scan with payload := s.scan.payload ++ [v], i := s.scan.i + 1 } })

/-- THE WIRE ROWS ARE THE SCAN, for a buffer whose scan COMPLETES: presenting it byte by byte at the wire port, from the
start of a scan, reaches the very result FD.TRY_EXTRACT gives for the buffer (43 R74), with the bytes after the STOP
still offered, and leaves the block's state alone. That bytes stand in `stream`, that scan locals are held, and that the
rows run in a faulted state too, is the model's (log entries 1, 9, 10). -/
def Obligations.WireBytesRunTryExtract : Prop :=
  ∀ (s : State) (x : List Byte) (sig : Option Signal) (n : Nat), s.cfg.wf → s.port = .wire → s.scan = Scan.begin →
    tryExtract s.cfg s.stream = .complete x sig n →
    ∃ k, 1 ≤ k ∧ k ≤ n ∧ Sys2Proof.core.run k s =
      .next { s with stream := s.stream.drop n, scan := Scan.begin, ret := .extract (.complete x sig n) }

/-! ## The codecs -/

/-- 41 R64 and R66: exactly the five tags are reserved, the values 5C 7B 7D 7E 81 by default; and under legal tags each
byte has the class of the priority table in each scan state. -/
def Obligations.ReservedBytesAndClasses : Prop :=
  (∀ (cfg : Config) (b : Byte),
    isReserved cfg b = true ↔ b ∈ [cfg.start, cfg.stop, cfg.escape, cfg.response, cfg.nresponse]) ∧
  (∀ b : Byte, isReserved Config.default b = true ↔ b ∈ [0x5C, 0x7B, 0x7D, 0x7E, 0x81]) ∧
  ∀ (cfg : Config) (b : Byte) (st : ScanState), cfg.wf → classify cfg b st =
    if b = cfg.escape then .esc
    else if b = cfg.stop then .stopC
    else if b = cfg.start then .startC
    else match st with
      | .inFrame => if b = cfg.response then .sigAck else if b = cfg.nresponse then .sigNack else .data
      | .seeking => .data

/-- 41 R65: an ESCAPE goes before a payload byte if and only if it is reserved; so the length grows by the number of
reserved bytes and at most doubles. -/
def Obligations.StuffEscapesExactlyTheReserved : Prop :=
  ∀ (cfg : Config) (p : List Byte),
    stuff cfg p = p.flatMap (fun b => if b ∈ cfg.tags then [cfg.escape, b] else [b]) ∧
    (stuff cfg p).length = p.length + p.countP (fun b => decide (b ∈ cfg.tags)) ∧
    (stuff cfg p).length ≤ 2 * p.length

/-- Frame formats and lengths (30 R48 to R50; 42 R69, R70, R72): a data frame is 4 + n + r bytes, START first, then
SEQ unescaped and PARITY 00 or 01, then the stuffed payload, STOP last; a response frame is its 5 bytes START, SEQ,
PARITY, the unescaped signal byte and STOP under any tags, and with the default tags always of parity 00. -/
def Obligations.FrameFormats : Prop :=
  (∀ (cfg : Config) (p : List Byte) (q : Byte),
    (dataFrame cfg p q).length = 4 + p.length + p.countP (fun b => decide (b ∈ cfg.tags)) ∧
    (dataFrame cfg p q)[0]? = some cfg.start ∧ (dataFrame cfg p q)[1]? = some q ∧
    (dataFrame cfg p q)[2]? = some (zext8 (parity p)) ∧ (zext8 (parity p) = 0x00 ∨ zext8 (parity p) = 0x01) ∧
    ((dataFrame cfg p q).drop 3).dropLast = stuff cfg p ∧
    (dataFrame cfg p q).getLast? = some cfg.stop) ∧
  (∀ (cfg : Config) (q : Byte),
    responseFrame cfg .ack q = [cfg.start, q, zext8 (parity [cfg.response]), cfg.response, cfg.stop] ∧
    responseFrame cfg .nack q = [cfg.start, q, zext8 (parity [cfg.nresponse]), cfg.nresponse, cfg.stop] ∧
    ∀ sig, (responseFrame cfg sig q).length = 5) ∧
  (∀ q : Byte, responseFrame Config.default .ack q = [0x7B, q, 0x00, 0x7E, 0x7D] ∧
    responseFrame Config.default .nack q = [0x7B, q, 0x00, 0x81, 0x7D])

/-- ESCAPING ROUND TRIP (41 R68): scanning a stuffed payload and a STOP appends exactly the payload, records no signal
and ends at that STOP. -/
def Obligations.StuffedPayloadScansToItself : Prop :=
  ∀ (cfg : Config) (sc : Scan) (p rest : List Byte), cfg.wf →
    scanFrom cfg sc (stuff cfg p ++ cfg.stop :: rest) =
      .complete (sc.payload ++ p) sc.sig (sc.i + (stuff cfg p).length + 1)

/-- FRAME ROUND TRIP (43 R84): for every payload and every SEQ that is no tag, the decoder takes the whole encoded frame
and gives back SEQ, PARITY and the payload, with no signal; a response frame gives SEQ, PARITY and its signal. -/
def Obligations.EncodedFrameDecodes : Prop :=
  ∀ (cfg : Config) (p : List Byte) (q : Byte), cfg.wf → q ∉ cfg.tags →
    tryExtract cfg (dataFrame cfg p q) =
      .complete (q :: zext8 (parity p) :: p) none (dataFrame cfg p q).length ∧
    ∀ sig, tryExtract cfg (responseFrame cfg sig q) =
      .complete [q, zext8 (parity [signalByte cfg sig])] (some sig) 5

/-- THE SEQ HAZARD (70 R129): when SEQ is a tag the frame does not decode to what was encoded: SEQ is lost, its tag
acts, and a SEQ equal to STOP splits the frame in two. -/
def Obligations.SeqEqualToATagMisframes : Prop :=
  ∀ (cfg : Config) (d : List Byte), cfg.wf →
    let P : Byte := zext8 (parity d)
    let L := (stuff cfg d).length + 4
    tryExtract cfg (dataFrame cfg d cfg.escape) = .complete (P :: d) none L ∧
    tryExtract cfg (dataFrame cfg d cfg.start) = .complete (P :: d) none L ∧
    tryExtract cfg (dataFrame cfg d cfg.response) = .complete (P :: d) (some .ack) L ∧
    tryExtract cfg (dataFrame cfg d cfg.nresponse) = .complete (P :: d) (some .nack) L ∧
    tryExtract cfg (dataFrame cfg d cfg.stop) = .complete [] none 2 ∧
    tryExtract cfg ((dataFrame cfg d cfg.stop).drop 2) = .complete (P :: d) none (L - 2)

/-- 43 R83: a scan that is INCOMPLETE becomes COMPLETE by one more byte only if that byte is STOP, and then the whole
buffer is consumed. -/
def Obligations.CompletedFrameEmptiesTheBuffer : Prop :=
  ∀ (cfg : Config) (buf : List Byte) (b : Byte) (x : List Byte) (sig : Option Signal) (n : Nat),
    tryExtract cfg buf = .incomplete → tryExtract cfg (buf ++ [b]) = .complete x sig n →
    b = cfg.stop ∧ n = buf.length + 1

/-- Junk before a START is merged into the next frame's payload (43 R79, 70 R135): bytes that are no ESCAPE, STOP or
START, the signal bytes among them, come first in it. -/
def Obligations.JunkBeforeStartIsMerged : Prop :=
  ∀ (cfg : Config) (junk p : List Byte) (q : Byte), cfg.wf → q ∉ cfg.tags →
    (∀ b ∈ junk, b ≠ cfg.escape ∧ b ≠ cfg.stop ∧ b ≠ cfg.start) →
    tryExtract cfg (junk ++ dataFrame cfg p q) =
      .complete (junk ++ q :: zext8 (parity p) :: p) none (junk.length + (dataFrame cfg p q).length)

/-- 44 R85: the parity is 1 exactly when the set bits of all the bytes together are odd in number, so it does not
depend on their order. -/
def Obligations.ParityIsTheOddnessOfAllBits : Prop :=
  ∀ bs : List Byte,
    parity bs = decide ((frameBits bs).count true % 2 = 1) ∧ ∀ cs : List Byte, bs.Perm cs → parity cs = parity bs

/-- What parity detects (44 R86, R87): after flipping bits of the data, the check of a byte that passed still passes
exactly when the number of flipped bits is even; and no other parity byte passes. -/
def Obligations.ParityDetectsOddFlips : Prop :=
  ∀ (r : Byte) (data flips : List Byte), flips.length = data.length → parityOk r data = true →
    (parityOk r (List.zipWith (· ^^^ ·) data flips) = true ↔ (frameBits flips).count true % 2 = 0) ∧
    ∀ r' : Byte, r' ≠ r → parityOk r' data = false

/-! ## Faults -/

/-- 60 R116: while a fault is set, DELIVER, SEND and STEP have no step; only RESET has, and it clears the fault. -/
def Obligations.FaultedBlockTakesOnlyReset : Prop :=
  ∀ (s : State) (cause : FaultCause), s.fault = some cause →
    (∀ c, exec (.deliver c) s = .refused .faulted) ∧ (∀ p, exec (.send p) s = .refused .faulted) ∧
    exec .step s = .refused .faulted ∧ answers (exec .reset s) fun t => t.fault = none

/-- A faulted block is frozen (60 R114, "The frozen state of rule R115"): no row but RESET changes any part of it. That
the function rows are closed too is the model's (log entry 10). -/
def Obligations.FaultFreezesTheBlock : Prop :=
  ∀ (s t : State) (i : Instr), s.fault ≠ none → i ≠ .reset → exec i s = .next t → t.block = s.block

/-- FAULT ENTRY (60 R114, R115): a row sets the fault only as RXBUF_OVERFLOW in a DELIVER that completes a byte with a
full buffer, the byte discarded, or as RUNT_FRAME under RUNT_POLICY = FAULT, the runt already drained; everything else
is as before. -/
def Obligations.FaultsAreRaisedAndRecordedAsSpecified : Prop :=
  ∀ (s t : State) (i : Instr) (cause : FaultCause), s.fault = none → exec i s = .next t → t.fault = some cause →
    (cause = .rxbufOverflow ∧ (∃ c v, i = .deliver c ∧ pushBit s.bitq c = ([], some v)) ∧
      s.cfg.rxBufDepth = some s.rxbuf.length ∧ t = { s with bitq := [], fault := some .rxbufOverflow }) ∨
    (cause = .runtFrame ∧ s.cfg.runtPolicy = .fault ∧
      ((∃ c v x sig n, i = .deliver c ∧ pushBit s.bitq c = ([], some v) ∧
          tryExtract s.cfg (s.rxbuf ++ [v]) = .complete x sig n ∧ x.length < 2 ∧
          t = { s with bitq := [], rxbuf := (s.rxbuf ++ [v]).drop n, fault := some .runtFrame }) ∨
       (∃ x sig, i = .arqOnFrameReceived x sig ∧ x.length < 2 ∧ t = { s with fault := some .runtFrame })))

/-- With an unbounded receive buffer and a RUNT_POLICY other than FAULT, the defaults among them, no row ever sets a
fault, and every inbound bit sequence runs (60 R113, R114). -/
def Obligations.DefaultsNeverFault : Prop :=
  (∀ (s t : State) (i : Instr), faultFree s.cfg → s.fault = none → exec i s = .next t → t.fault = none) ∧
  ∀ (bits : List Bit) (s : State), faultFree s.cfg → s.fault = none →
    answers (runEvents (deliverEvents bits) s) fun t => t.fault = none

/-! ## Whole-machine rules -/

/-- 10 R23: the two outputs are append-only: no row, RESET among them, removes an element of either. -/
def Obligations.OutputRecordsOnlyGrow : Prop :=
  (∀ (s t : State) (i : Instr), exec i s = .next t → s.txlog <+: t.txlog ∧ s.clientlog <+: t.clientlog) ∧
  ∀ s t : State, step s = .next t → s.txlog <+: t.txlog ∧ s.clientlog <+: t.clientlog

/-- The parameters are fixed at elaboration (00 R5, 10 R25): no row and no step writes them. -/
def Obligations.ParametersAreFixed : Prop :=
  (∀ (s t : State) (i : Instr), exec i s = .next t → t.cfg = s.cfg) ∧ ∀ s t : State, step s = .next t → t.cfg = s.cfg

/-- 10 R15: `sendSeq` changes only by RESET or by the advance at the end of a retry loop, which is by one,
modulo 256 at the default SEQ_WIDTH (other widths: log entry 4). -/
def Obligations.SendSeqAdvancesOnlyAtTheEndOfARetryLoop : Prop :=
  ∀ (s t : State) (i : Instr), exec i s = .next t → i ≠ .reset →
    t.sendSeq = s.sendSeq ∨
    (t.sendSeq = nextSeq s.cfg s.sendSeq ∧ (s.cfg.seqWidth = 8 → t.sendSeq = s.sendSeq + 1) ∧
      (i = .step ∨ i = .arqRetryStep) ∧ (∃ k, s.seqr = .attempted k) ∧ t.seqr = .chunk)

/-- 10 R16, 46 R109: apart from RESET, `recvSeq` advances exactly when a payload is delivered to the client, by one for
one payload, and only a DELIVER (or ARQ.ON_FRAME_RECEIVED by itself) does so. The advance is modulo 256 at the default
SEQ_WIDTH (other widths: log entry 4). -/
def Obligations.EveryDeliveryAdvancesRecvSeq : Prop :=
  ∀ (s t : State) (i : Instr), exec i s = .next t → i ≠ .reset →
    (t.recvSeq = s.recvSeq ∧ t.clientlog = s.clientlog) ∨
    (t.recvSeq = nextSeq s.cfg s.recvSeq ∧ (s.cfg.seqWidth = 8 → t.recvSeq = s.recvSeq + 1) ∧
      (∃ data, t.clientlog = s.clientlog ++ [data]) ∧
      ((∃ c, i = .deliver c) ∨ ∃ x sig, i = .arqOnFrameReceived x sig))

/-- `recvSeq` counts deliveries modulo 256 over any events without a RESET (45 R99): so two deliveries with the same
SEQ lie a multiple of 256 deliveries apart. At a SEQ_WIDTH other than 8, 256 is 2 to that power (log entry 4). The
premise is of the invariant: legal parameters, and `recvSeq` within its width. -/
def Obligations.RecvSeqCountsDeliveries : Prop :=
  ∀ (is : List Instr) (s t : State), s.cfg.wf → s.recvSeq.toNat < 2 ^ s.cfg.seqWidth → .reset ∉ is →
    runEvents is s = .next t →
    s.clientlog.length ≤ t.clientlog.length ∧
    t.recvSeq.toNat = (s.recvSeq.toNat + (t.clientlog.length - s.clientlog.length)) % 2 ^ s.cfg.seqWidth ∧
    (s.cfg.seqWidth = 8 → t.recvSeq = s.recvSeq + BitVec.ofNat 8 (t.clientlog.length - s.clientlog.length))

/-- The invariant at power-on under every legal parameter setting, so at `State.reset`. -/
def Obligations.PowerOnMeetsTheInvariant : Prop :=
  (∀ cfg : Config, cfg.wf → (State.powerOn cfg).Inv) ∧ State.reset.Inv

/-- EVERY STEP KEEPS THE INVARIANT: the bit queue short, the receive buffer scanning INCOMPLETE and within its depth, the
send buffer empty in IDLE, the sequence counters within SEQ_WIDTH (log entry 4), the attempt count legal with its frame
stored, the signal consumed, the stored frames of legal size, a fault only as its cause allows (10 R11 to R22, 43 R83). -/
def Obligations.EveryStepKeepsTheInvariant : Prop :=
  ∀ s t : State, s.Inv → step s = .next t → t.Inv

/-- From a state that meets the invariant no step ends in the machine fault `noStoredFrame`, the only one (45 R89: the
stored frame "is always `SOME` here"). A step may still be refused, and a fault of the block is a next state: that both
are so is the model's (log entries 12, 13). -/
def Obligations.NoStepFaultsFromTheInvariant : Prop :=
  ∀ (s : State) (r : Fault), s.Inv → step s ≠ .fault r

/-! ## Two instances -/

/-- DELIVERY TO A PEER (20 R46, 45 R96): the bits of a data frame, offered in order to an aligned receiver that expects
its SEQ, no tag (SeqEqualToATagMisframes says what a tag does), and whose receive buffer can hold the frame, deliver the
payload, advance `recvSeq` and transmit the ACK; every other part of the receiver is as before. A constant byte as the
ACK's SEQ is the model's other setting of RESP_SEQ (log entry 5), and an advance at a SEQ_WIDTH other than 8 is its
reading (log entry 4). -/
def Obligations.PeerReceivesWhatWasSent : Prop :=
  ∀ (s : State) (p : List Byte), s.cfg.wf → s.fault = none → s.bitq = [] → s.rxbuf = [] → s.pendingSig = none →
    s.recvSeq ∉ s.cfg.tags → (∀ d, s.cfg.rxBufDepth = some d → (dataFrame s.cfg p s.recvSeq).length ≤ d) →
    let ack := responseFrame s.cfg .ack (match s.cfg.respSeq with | .recvSeq => nextSeq s.cfg s.recvSeq | .fixed q => q)
    runEvents (deliverEvents (frameBits (dataFrame s.cfg p s.recvSeq))) s =
      .next { s with
        clientlog := s.clientlog ++ [p], recvSeq := nextSeq s.cfg s.recvSeq, lastResponseFrame := some ack,
        txlog := s.txlog ++ frameBits ack }

/-- AN ACK ENDS THE RETRY LOOP at its next check, whatever its SEQ (70 R133): the bits of an ACK, between two STEPs of an
aligned sender, set ACKED, and the next STEP advances without retransmitting (an advance at a SEQ_WIDTH other than 8: log
entry 4). -/
def Obligations.AckEndsTheRetryLoop : Prop :=
  ∀ (s : State) (q : Byte) (k : Nat), s.cfg.wf → parity [s.cfg.response] = false → s.fault = none → s.bitq = [] →
    s.rxbuf = [] → s.pendingSig = none → q ∉ s.cfg.tags → (∀ d, s.cfg.rxBufDepth = some d → 5 ≤ d) →
    s.seqr = .attempted k →
    runEvents (deliverEvents (frameBits (responseFrame s.cfg .ack q)) ++ [.step]) s =
      .next { s with ackStatus := .acked, sendSeq := nextSeq s.cfg s.sendSeq, seqr := .chunk }

/-- The two ends of a link "share nothing but the transport" (60 R122, 20 R46): an action at one end runs its row there
and leaves the other end alone; a carry leaves the end it takes from alone, and all it does at the other end is the DELIVER
of one bit: the next bit sent (pass), its complement (corrupt) or the inserted bit (insert), or nothing (lose). What the
transport has taken of an end's output grows by that one bit, never falls, and never exceeds what that end has sent. The
link's actions and its counts of the bits taken are the model's (DEDUCED, log entry 19). -/
def Obligations.LinkEndsShareOnlyBits : Prop :=
  ∀ (l l' : Link) (x : LinkAction), l.act x = some l' →
    (match x with
      | .here side i => exec i (l.at side) = .next (l'.at side) ∧ l'.at side.other = l.at side.other ∧
          l'.takenA = l.takenA ∧ l'.takenB = l.takenB
      | .carry source what => l'.at source = l.at source ∧
          match what with
          | .pass => ∃ c, l.pending source = some c ∧ exec (.deliver c) (l.at source.other) = .next (l'.at source.other) ∧
              l'.takenA = (l.take source).takenA ∧ l'.takenB = (l.take source).takenB
          | .corrupt => ∃ c, l.pending source = some c ∧
              exec (.deliver !c) (l.at source.other) = .next (l'.at source.other) ∧
              l'.takenA = (l.take source).takenA ∧ l'.takenB = (l.take source).takenB
          | .lose => (∃ c, l.pending source = some c) ∧ l'.at source.other = l.at source.other ∧
              l'.takenA = (l.take source).takenA ∧ l'.takenB = (l.take source).takenB
          | .insert c => exec (.deliver c) (l.at source.other) = .next (l'.at source.other) ∧
              l'.takenA = l.takenA ∧ l'.takenB = l.takenB) ∧
    (∀ side, l'.at side = l.at side ∨ (l'.at side.other = l.at side.other ∧ ∃ i, exec i (l.at side) = .next (l'.at side))) ∧
    l.takenA ≤ l'.takenA ∧ l.takenB ≤ l'.takenB ∧
    (l.takenA ≤ l.a.txlog.length ∧ l.takenB ≤ l.b.txlog.length →
      l'.takenA ≤ l'.a.txlog.length ∧ l'.takenB ≤ l'.b.txlog.length)
end

