-- ==== Sys2Proof/Laws/State.lean ====
section
/-! SUPPORT. What each named operation over the state does to each field: true by definition, so that no proof unfolds a
record update. -/

namespace Sys2Proof.Machine

/-! ## transmit -/

@[simp] theorem transmit_cfg (f : List Byte) (s : State) : (transmit f s).cfg = s.cfg := rfl
@[simp] theorem transmit_bitq (f : List Byte) (s : State) : (transmit f s).bitq = s.bitq := rfl
@[simp] theorem transmit_rxbuf (f : List Byte) (s : State) : (transmit f s).rxbuf = s.rxbuf := rfl
@[simp] theorem transmit_sendbuf (f : List Byte) (s : State) : (transmit f s).sendbuf = s.sendbuf := rfl
@[simp] theorem transmit_sendSeq (f : List Byte) (s : State) : (transmit f s).sendSeq = s.sendSeq := rfl
@[simp] theorem transmit_recvSeq (f : List Byte) (s : State) : (transmit f s).recvSeq = s.recvSeq := rfl
@[simp] theorem transmit_ackStatus (f : List Byte) (s : State) : (transmit f s).ackStatus = s.ackStatus := rfl
@[simp] theorem transmit_pendingSig (f : List Byte) (s : State) : (transmit f s).pendingSig = s.pendingSig := rfl
@[simp] theorem transmit_lastFrameSent (f : List Byte) (s : State) : (transmit f s).lastFrameSent = s.lastFrameSent := rfl
@[simp] theorem transmit_lastResponseFrame (f : List Byte) (s : State) : (transmit f s).lastResponseFrame = s.lastResponseFrame := rfl
@[simp] theorem transmit_seqr (f : List Byte) (s : State) : (transmit f s).seqr = s.seqr := rfl
@[simp] theorem transmit_fault (f : List Byte) (s : State) : (transmit f s).fault = s.fault := rfl
@[simp] theorem transmit_txlog (f : List Byte) (s : State) : (transmit f s).txlog = s.txlog ++ frameBits f := rfl
@[simp] theorem transmit_clientlog (f : List Byte) (s : State) : (transmit f s).clientlog = s.clientlog := rfl
@[simp] theorem transmit_port (f : List Byte) (s : State) : (transmit f s).port = s.port := rfl
@[simp] theorem transmit_stream (f : List Byte) (s : State) : (transmit f s).stream = s.stream := rfl
@[simp] theorem transmit_ret (f : List Byte) (s : State) : (transmit f s).ret = s.ret := rfl
@[simp] theorem transmit_scan (f : List Byte) (s : State) : (transmit f s).scan = s.scan := rfl

/-! ## clientReceive -/

@[simp] theorem clientReceive_cfg (p : List Byte) (s : State) : (clientReceive p s).cfg = s.cfg := rfl
@[simp] theorem clientReceive_bitq (p : List Byte) (s : State) : (clientReceive p s).bitq = s.bitq := rfl
@[simp] theorem clientReceive_rxbuf (p : List Byte) (s : State) : (clientReceive p s).rxbuf = s.rxbuf := rfl
@[simp] theorem clientReceive_sendbuf (p : List Byte) (s : State) : (clientReceive p s).sendbuf = s.sendbuf := rfl
@[simp] theorem clientReceive_sendSeq (p : List Byte) (s : State) : (clientReceive p s).sendSeq = s.sendSeq := rfl
@[simp] theorem clientReceive_recvSeq (p : List Byte) (s : State) : (clientReceive p s).recvSeq = s.recvSeq := rfl
@[simp] theorem clientReceive_ackStatus (p : List Byte) (s : State) : (clientReceive p s).ackStatus = s.ackStatus := rfl
@[simp] theorem clientReceive_pendingSig (p : List Byte) (s : State) : (clientReceive p s).pendingSig = s.pendingSig := rfl
@[simp] theorem clientReceive_lastFrameSent (p : List Byte) (s : State) : (clientReceive p s).lastFrameSent = s.lastFrameSent := rfl
@[simp] theorem clientReceive_lastResponseFrame (p : List Byte) (s : State) : (clientReceive p s).lastResponseFrame = s.lastResponseFrame := rfl
@[simp] theorem clientReceive_seqr (p : List Byte) (s : State) : (clientReceive p s).seqr = s.seqr := rfl
@[simp] theorem clientReceive_fault (p : List Byte) (s : State) : (clientReceive p s).fault = s.fault := rfl
@[simp] theorem clientReceive_txlog (p : List Byte) (s : State) : (clientReceive p s).txlog = s.txlog := rfl
@[simp] theorem clientReceive_clientlog (p : List Byte) (s : State) : (clientReceive p s).clientlog = s.clientlog ++ [p] := rfl
@[simp] theorem clientReceive_port (p : List Byte) (s : State) : (clientReceive p s).port = s.port := rfl
@[simp] theorem clientReceive_stream (p : List Byte) (s : State) : (clientReceive p s).stream = s.stream := rfl
@[simp] theorem clientReceive_ret (p : List Byte) (s : State) : (clientReceive p s).ret = s.ret := rfl
@[simp] theorem clientReceive_scan (p : List Byte) (s : State) : (clientReceive p s).scan = s.scan := rfl

/-! ## raiseFault -/

@[simp] theorem raiseFault_cfg (c : FaultCause) (s : State) : (raiseFault c s).cfg = s.cfg := rfl
@[simp] theorem raiseFault_bitq (c : FaultCause) (s : State) : (raiseFault c s).bitq = s.bitq := rfl
@[simp] theorem raiseFault_rxbuf (c : FaultCause) (s : State) : (raiseFault c s).rxbuf = s.rxbuf := rfl
@[simp] theorem raiseFault_sendbuf (c : FaultCause) (s : State) : (raiseFault c s).sendbuf = s.sendbuf := rfl
@[simp] theorem raiseFault_sendSeq (c : FaultCause) (s : State) : (raiseFault c s).sendSeq = s.sendSeq := rfl
@[simp] theorem raiseFault_recvSeq (c : FaultCause) (s : State) : (raiseFault c s).recvSeq = s.recvSeq := rfl
@[simp] theorem raiseFault_ackStatus (c : FaultCause) (s : State) : (raiseFault c s).ackStatus = s.ackStatus := rfl
@[simp] theorem raiseFault_pendingSig (c : FaultCause) (s : State) : (raiseFault c s).pendingSig = s.pendingSig := rfl
@[simp] theorem raiseFault_lastFrameSent (c : FaultCause) (s : State) : (raiseFault c s).lastFrameSent = s.lastFrameSent := rfl
@[simp] theorem raiseFault_lastResponseFrame (c : FaultCause) (s : State) : (raiseFault c s).lastResponseFrame = s.lastResponseFrame := rfl
@[simp] theorem raiseFault_seqr (c : FaultCause) (s : State) : (raiseFault c s).seqr = s.seqr := rfl
@[simp] theorem raiseFault_fault (c : FaultCause) (s : State) : (raiseFault c s).fault = some c := rfl
@[simp] theorem raiseFault_txlog (c : FaultCause) (s : State) : (raiseFault c s).txlog = s.txlog := rfl
@[simp] theorem raiseFault_clientlog (c : FaultCause) (s : State) : (raiseFault c s).clientlog = s.clientlog := rfl
@[simp] theorem raiseFault_port (c : FaultCause) (s : State) : (raiseFault c s).port = s.port := rfl
@[simp] theorem raiseFault_stream (c : FaultCause) (s : State) : (raiseFault c s).stream = s.stream := rfl
@[simp] theorem raiseFault_ret (c : FaultCause) (s : State) : (raiseFault c s).ret = s.ret := rfl
@[simp] theorem raiseFault_scan (c : FaultCause) (s : State) : (raiseFault c s).scan = s.scan := rfl

/-! ## returning -/

@[simp] theorem returning_cfg (r : Ret) (s : State) : (returning r s).cfg = s.cfg := rfl
@[simp] theorem returning_bitq (r : Ret) (s : State) : (returning r s).bitq = s.bitq := rfl
@[simp] theorem returning_rxbuf (r : Ret) (s : State) : (returning r s).rxbuf = s.rxbuf := rfl
@[simp] theorem returning_sendbuf (r : Ret) (s : State) : (returning r s).sendbuf = s.sendbuf := rfl
@[simp] theorem returning_sendSeq (r : Ret) (s : State) : (returning r s).sendSeq = s.sendSeq := rfl
@[simp] theorem returning_recvSeq (r : Ret) (s : State) : (returning r s).recvSeq = s.recvSeq := rfl
@[simp] theorem returning_ackStatus (r : Ret) (s : State) : (returning r s).ackStatus = s.ackStatus := rfl
@[simp] theorem returning_pendingSig (r : Ret) (s : State) : (returning r s).pendingSig = s.pendingSig := rfl
@[simp] theorem returning_lastFrameSent (r : Ret) (s : State) : (returning r s).lastFrameSent = s.lastFrameSent := rfl
@[simp] theorem returning_lastResponseFrame (r : Ret) (s : State) : (returning r s).lastResponseFrame = s.lastResponseFrame := rfl
@[simp] theorem returning_seqr (r : Ret) (s : State) : (returning r s).seqr = s.seqr := rfl
@[simp] theorem returning_fault (r : Ret) (s : State) : (returning r s).fault = s.fault := rfl
@[simp] theorem returning_txlog (r : Ret) (s : State) : (returning r s).txlog = s.txlog := rfl
@[simp] theorem returning_clientlog (r : Ret) (s : State) : (returning r s).clientlog = s.clientlog := rfl
@[simp] theorem returning_port (r : Ret) (s : State) : (returning r s).port = s.port := rfl
@[simp] theorem returning_stream (r : Ret) (s : State) : (returning r s).stream = s.stream := rfl
@[simp] theorem returning_ret (r : Ret) (s : State) : (returning r s).ret = r := rfl
@[simp] theorem returning_scan (r : Ret) (s : State) : (returning r s).scan = s.scan := rfl

/-! ## sendResponse -/

@[simp] theorem sendResponse_cfg (sig : Signal) (s : State) : (sendResponse sig s).cfg = s.cfg := rfl
@[simp] theorem sendResponse_bitq (sig : Signal) (s : State) : (sendResponse sig s).bitq = s.bitq := rfl
@[simp] theorem sendResponse_rxbuf (sig : Signal) (s : State) : (sendResponse sig s).rxbuf = s.rxbuf := rfl
@[simp] theorem sendResponse_sendbuf (sig : Signal) (s : State) : (sendResponse sig s).sendbuf = s.sendbuf := rfl
@[simp] theorem sendResponse_sendSeq (sig : Signal) (s : State) : (sendResponse sig s).sendSeq = s.sendSeq := rfl
@[simp] theorem sendResponse_recvSeq (sig : Signal) (s : State) : (sendResponse sig s).recvSeq = s.recvSeq := rfl
@[simp] theorem sendResponse_ackStatus (sig : Signal) (s : State) : (sendResponse sig s).ackStatus = s.ackStatus := rfl
@[simp] theorem sendResponse_pendingSig (sig : Signal) (s : State) : (sendResponse sig s).pendingSig = s.pendingSig := rfl
@[simp] theorem sendResponse_lastFrameSent (sig : Signal) (s : State) : (sendResponse sig s).lastFrameSent = s.lastFrameSent := rfl
@[simp] theorem sendResponse_lastResponseFrame (sig : Signal) (s : State) : (sendResponse sig s).lastResponseFrame = some (s.response sig) := rfl
@[simp] theorem sendResponse_seqr (sig : Signal) (s : State) : (sendResponse sig s).seqr = s.seqr := rfl
@[simp] theorem sendResponse_fault (sig : Signal) (s : State) : (sendResponse sig s).fault = s.fault := rfl
@[simp] theorem sendResponse_txlog (sig : Signal) (s : State) : (sendResponse sig s).txlog = s.txlog ++ frameBits (s.response sig) := rfl
@[simp] theorem sendResponse_clientlog (sig : Signal) (s : State) : (sendResponse sig s).clientlog = s.clientlog := rfl
@[simp] theorem sendResponse_port (sig : Signal) (s : State) : (sendResponse sig s).port = s.port := rfl
@[simp] theorem sendResponse_stream (sig : Signal) (s : State) : (sendResponse sig s).stream = s.stream := rfl
@[simp] theorem sendResponse_ret (sig : Signal) (s : State) : (sendResponse sig s).ret = s.ret := rfl
@[simp] theorem sendResponse_scan (sig : Signal) (s : State) : (sendResponse sig s).scan = s.scan := rfl

/-! ## onSendRequested -/

@[simp] theorem onSendRequested_cfg (c : List Byte) (s : State) : (onSendRequested c s).cfg = s.cfg := rfl
@[simp] theorem onSendRequested_bitq (c : List Byte) (s : State) : (onSendRequested c s).bitq = s.bitq := rfl
@[simp] theorem onSendRequested_rxbuf (c : List Byte) (s : State) : (onSendRequested c s).rxbuf = s.rxbuf := rfl
@[simp] theorem onSendRequested_sendbuf (c : List Byte) (s : State) : (onSendRequested c s).sendbuf = s.sendbuf := rfl
@[simp] theorem onSendRequested_sendSeq (c : List Byte) (s : State) : (onSendRequested c s).sendSeq = s.sendSeq := rfl
@[simp] theorem onSendRequested_recvSeq (c : List Byte) (s : State) : (onSendRequested c s).recvSeq = s.recvSeq := rfl
@[simp] theorem onSendRequested_ackStatus (c : List Byte) (s : State) : (onSendRequested c s).ackStatus = .awaitingAck := rfl
@[simp] theorem onSendRequested_pendingSig (c : List Byte) (s : State) : (onSendRequested c s).pendingSig = s.pendingSig := rfl
@[simp] theorem onSendRequested_lastFrameSent (c : List Byte) (s : State) : (onSendRequested c s).lastFrameSent = some (dataFrame s.cfg c s.sendSeq) := rfl
@[simp] theorem onSendRequested_lastResponseFrame (c : List Byte) (s : State) : (onSendRequested c s).lastResponseFrame = s.lastResponseFrame := rfl
@[simp] theorem onSendRequested_seqr (c : List Byte) (s : State) : (onSendRequested c s).seqr = s.seqr := rfl
@[simp] theorem onSendRequested_fault (c : List Byte) (s : State) : (onSendRequested c s).fault = s.fault := rfl
@[simp] theorem onSendRequested_txlog (c : List Byte) (s : State) : (onSendRequested c s).txlog = s.txlog ++ frameBits (dataFrame s.cfg c s.sendSeq) := rfl
@[simp] theorem onSendRequested_clientlog (c : List Byte) (s : State) : (onSendRequested c s).clientlog = s.clientlog := rfl
@[simp] theorem onSendRequested_port (c : List Byte) (s : State) : (onSendRequested c s).port = s.port := rfl
@[simp] theorem onSendRequested_stream (c : List Byte) (s : State) : (onSendRequested c s).stream = s.stream := rfl
@[simp] theorem onSendRequested_ret (c : List Byte) (s : State) : (onSendRequested c s).ret = s.ret := rfl
@[simp] theorem onSendRequested_scan (c : List Byte) (s : State) : (onSendRequested c s).scan = s.scan := rfl

/-! ## scanOn -/

@[simp] theorem scanOn_cfg (sc : Scan) (s : State) : (scanOn sc s).cfg = s.cfg := rfl
@[simp] theorem scanOn_bitq (sc : Scan) (s : State) : (scanOn sc s).bitq = s.bitq := rfl
@[simp] theorem scanOn_rxbuf (sc : Scan) (s : State) : (scanOn sc s).rxbuf = s.rxbuf := rfl
@[simp] theorem scanOn_sendbuf (sc : Scan) (s : State) : (scanOn sc s).sendbuf = s.sendbuf := rfl
@[simp] theorem scanOn_sendSeq (sc : Scan) (s : State) : (scanOn sc s).sendSeq = s.sendSeq := rfl
@[simp] theorem scanOn_recvSeq (sc : Scan) (s : State) : (scanOn sc s).recvSeq = s.recvSeq := rfl
@[simp] theorem scanOn_ackStatus (sc : Scan) (s : State) : (scanOn sc s).ackStatus = s.ackStatus := rfl
@[simp] theorem scanOn_pendingSig (sc : Scan) (s : State) : (scanOn sc s).pendingSig = s.pendingSig := rfl
@[simp] theorem scanOn_lastFrameSent (sc : Scan) (s : State) : (scanOn sc s).lastFrameSent = s.lastFrameSent := rfl
@[simp] theorem scanOn_lastResponseFrame (sc : Scan) (s : State) : (scanOn sc s).lastResponseFrame = s.lastResponseFrame := rfl
@[simp] theorem scanOn_seqr (sc : Scan) (s : State) : (scanOn sc s).seqr = s.seqr := rfl
@[simp] theorem scanOn_fault (sc : Scan) (s : State) : (scanOn sc s).fault = s.fault := rfl
@[simp] theorem scanOn_txlog (sc : Scan) (s : State) : (scanOn sc s).txlog = s.txlog := rfl
@[simp] theorem scanOn_clientlog (sc : Scan) (s : State) : (scanOn sc s).clientlog = s.clientlog := rfl
@[simp] theorem scanOn_port (sc : Scan) (s : State) : (scanOn sc s).port = s.port := rfl
@[simp] theorem scanOn_stream (sc : Scan) (s : State) : (scanOn sc s).stream = s.stream := rfl
@[simp] theorem scanOn_ret (sc : Scan) (s : State) : (scanOn sc s).ret = s.ret := rfl
@[simp] theorem scanOn_scan (sc : Scan) (s : State) : (scanOn sc s).scan = sc := rfl

/-! ## scanEnds -/

@[simp] theorem scanEnds_cfg (r : Extract) (s : State) : (scanEnds r s).cfg = s.cfg := rfl
@[simp] theorem scanEnds_bitq (r : Extract) (s : State) : (scanEnds r s).bitq = s.bitq := rfl
@[simp] theorem scanEnds_rxbuf (r : Extract) (s : State) : (scanEnds r s).rxbuf = s.rxbuf := rfl
@[simp] theorem scanEnds_sendbuf (r : Extract) (s : State) : (scanEnds r s).sendbuf = s.sendbuf := rfl
@[simp] theorem scanEnds_sendSeq (r : Extract) (s : State) : (scanEnds r s).sendSeq = s.sendSeq := rfl
@[simp] theorem scanEnds_recvSeq (r : Extract) (s : State) : (scanEnds r s).recvSeq = s.recvSeq := rfl
@[simp] theorem scanEnds_ackStatus (r : Extract) (s : State) : (scanEnds r s).ackStatus = s.ackStatus := rfl
@[simp] theorem scanEnds_pendingSig (r : Extract) (s : State) : (scanEnds r s).pendingSig = s.pendingSig := rfl
@[simp] theorem scanEnds_lastFrameSent (r : Extract) (s : State) : (scanEnds r s).lastFrameSent = s.lastFrameSent := rfl
@[simp] theorem scanEnds_lastResponseFrame (r : Extract) (s : State) : (scanEnds r s).lastResponseFrame = s.lastResponseFrame := rfl
@[simp] theorem scanEnds_seqr (r : Extract) (s : State) : (scanEnds r s).seqr = s.seqr := rfl
@[simp] theorem scanEnds_fault (r : Extract) (s : State) : (scanEnds r s).fault = s.fault := rfl
@[simp] theorem scanEnds_txlog (r : Extract) (s : State) : (scanEnds r s).txlog = s.txlog := rfl
@[simp] theorem scanEnds_clientlog (r : Extract) (s : State) : (scanEnds r s).clientlog = s.clientlog := rfl
@[simp] theorem scanEnds_port (r : Extract) (s : State) : (scanEnds r s).port = s.port := rfl
@[simp] theorem scanEnds_stream (r : Extract) (s : State) : (scanEnds r s).stream = s.stream := rfl
@[simp] theorem scanEnds_ret (r : Extract) (s : State) : (scanEnds r s).ret = .extract r := rfl
@[simp] theorem scanEnds_scan (r : Extract) (s : State) : (scanEnds r s).scan = Scan.begin := rfl

/-! ## RESET and power-on -/

@[simp] theorem resetState_cfg (s : State) : (resetState s).cfg = s.cfg := rfl
@[simp] theorem resetState_bitq (s : State) : (resetState s).bitq = [] := rfl
@[simp] theorem resetState_rxbuf (s : State) : (resetState s).rxbuf = [] := rfl
@[simp] theorem resetState_sendbuf (s : State) : (resetState s).sendbuf = [] := rfl
@[simp] theorem resetState_sendSeq (s : State) : (resetState s).sendSeq = s.cfg.initSendSeq := rfl
@[simp] theorem resetState_recvSeq (s : State) : (resetState s).recvSeq = s.cfg.initRecvSeq := rfl
@[simp] theorem resetState_ackStatus (s : State) : (resetState s).ackStatus = .none := rfl
@[simp] theorem resetState_pendingSig (s : State) : (resetState s).pendingSig = none := rfl
@[simp] theorem resetState_lastFrameSent (s : State) : (resetState s).lastFrameSent = none := rfl
@[simp] theorem resetState_lastResponseFrame (s : State) : (resetState s).lastResponseFrame = none := rfl
@[simp] theorem resetState_seqr (s : State) : (resetState s).seqr = .idle := rfl
@[simp] theorem resetState_fault (s : State) : (resetState s).fault = none := rfl
@[simp] theorem resetState_txlog (s : State) : (resetState s).txlog = s.txlog := rfl
@[simp] theorem resetState_clientlog (s : State) : (resetState s).clientlog = s.clientlog := rfl
@[simp] theorem resetState_port (s : State) : (resetState s).port = s.port := rfl
@[simp] theorem resetState_stream (s : State) : (resetState s).stream = s.stream := rfl
@[simp] theorem resetState_ret (s : State) : (resetState s).ret = .nothing := rfl
@[simp] theorem resetState_scan (s : State) : (resetState s).scan = Scan.begin := rfl

end Sys2Proof.Machine
end

