-- ==== Sys2Proof/Laws/Ops.lean ====
section
/-! SUPPORT. One lemma for each shared operation that says everything it can do; proofs about rows cite these and do
not unfold the operations. -/

namespace Sys2Proof.Machine

/-! ## The gates -/

theorem unlessFaulted_of_none {s : State} (h : s.fault = none) (a : Answer) : unlessFaulted s a = a := by
  simp [unlessFaulted, h]

theorem unlessFaulted_of_some {s : State} {c : FaultCause} (h : s.fault = some c) (a : Answer) :
    unlessFaulted s a = .refused .faulted := by
  simp [unlessFaulted, h]

theorem unlessFaulted_eq_next {s t : State} {a : Answer} :
    unlessFaulted s a = .next t ↔ s.fault = none ∧ a = .next t := by
  cases h : s.fault <;> simp [unlessFaulted, h]

theorem unlessFaulted_eq_fault {s : State} {a : Answer} {r : Fault} :
    unlessFaulted s a = .fault r ↔ s.fault = none ∧ a = .fault r := by
  cases h : s.fault <;> simp [unlessFaulted, h]

theorem ifFitsFrame_eq_next {p : List Byte} {s t : State} {a : Answer} :
    ifFitsFrame p s a = .next t ↔ p.length ≤ s.cfg.maxFrameSize ∧ a = .next t := by
  by_cases h : p.length ≤ s.cfg.maxFrameSize <;> simp [ifFitsFrame, h]

theorem andThen_eq_next {a : Answer} {f : State → Answer} {t : State} :
    andThen a f = .next t ↔ ∃ u, a = .next u ∧ f u = .next t := by
  cases a <;> simp [andThen]

/-! ## bit_assembler -/

theorem pushBit_short {q : List Bit} (c : Bit) (h : q.length ≠ 7) : pushBit q c = (q ++ [c], none) := by
  simp [pushBit, h]

theorem pushBit_eighth {q : List Bit} (c : Bit) (h : q.length = 7) :
    pushBit q c = ([], some (byteOfBits (q ++ [c]))) := by
  simp [pushBit, h]

/-- Everything BA.PUSH can do (40 R62). -/
theorem pushBit_cases (q : List Bit) (c : Bit) :
    (q.length ≠ 7 ∧ pushBit q c = (q ++ [c], none)) ∨ (q.length = 7 ∧ ∃ v, pushBit q c = ([], some v)) := by
  by_cases h : q.length = 7
  · exact .inr ⟨h, _, pushBit_eighth c h⟩
  · exact .inl ⟨h, pushBit_short c h⟩

theorem pushBit_queue_length {q : List Bit} (c : Bit) (h : q.length ≤ 7) :
    (pushBit q c).1.length = (q.length + 1) % 8 := by
  rcases pushBit_cases q c with ⟨h7, e⟩ | ⟨h7, v, e⟩
  · simp [e]; omega
  · simp [e, h7]

/-- The bits of a byte, in transmit order, make that byte again (20 R32, R33). -/
theorem byteOfBits_byteBits (v : Byte) : byteOfBits (byteBits v) = v := by
  revert v; decide +kernel

@[simp] theorem byteBits_length (v : Byte) : (byteBits v).length = 8 := rfl

/-! ## Sequence numbers -/

theorem seqAfter_toNat {cfg : Config} (h : cfg.wf) (q : Byte) (n : Nat) :
    (seqAfter cfg q n).toNat = (q.toNat + n) % 2 ^ cfg.seqWidth := by
  have hw : cfg.seqWidth ≤ 8 := h.2.2.2.2.2.2.2.2.2.1
  have h1 : (q.toNat + n) % 2 ^ cfg.seqWidth < 2 ^ cfg.seqWidth := Nat.mod_lt _ (Nat.two_pow_pos _)
  have h2 : 2 ^ cfg.seqWidth ≤ 2 ^ 8 := Nat.pow_le_pow_right (by decide) hw
  rw [seqAfter, BitVec.toNat_ofNat, Nat.mod_eq_of_lt (by omega)]

theorem seqAfter_lt {cfg : Config} (h : cfg.wf) (q : Byte) (n : Nat) :
    (seqAfter cfg q n).toNat < 2 ^ cfg.seqWidth := by
  rw [seqAfter_toNat h]; exact Nat.mod_lt _ (Nat.two_pow_pos _)

theorem seqAfter_zero {cfg : Config} {q : Byte} (h : q.toNat < 2 ^ cfg.seqWidth) : seqAfter cfg q 0 = q := by
  rw [seqAfter, Nat.add_zero, Nat.mod_eq_of_lt h]; simp

theorem seqAfter_seqAfter {cfg : Config} (h : cfg.wf) (q : Byte) (m n : Nat) :
    seqAfter cfg (seqAfter cfg q m) n = seqAfter cfg q (m + n) := by
  apply BitVec.eq_of_toNat_eq
  rw [seqAfter_toNat h, seqAfter_toNat h, seqAfter_toNat h, Nat.mod_add_mod, Nat.add_assoc]

/-- At the default width the counters are bytes that count modulo 256 (92 D7). -/
theorem seqAfter_of_width_eight {cfg : Config} (h : cfg.seqWidth = 8) (q : Byte) (n : Nat) :
    seqAfter cfg q n = q + BitVec.ofNat 8 n := by
  apply BitVec.eq_of_toNat_eq; simp [seqAfter, h]

theorem nextSeq_of_width_eight {cfg : Config} (h : cfg.seqWidth = 8) (q : Byte) : nextSeq cfg q = q + 1 :=
  seqAfter_of_width_eight h q 1

theorem nextSeq_lt {cfg : Config} (h : cfg.wf) (q : Byte) : (nextSeq cfg q).toNat < 2 ^ cfg.seqWidth :=
  seqAfter_lt h q 1

/-! ## arq_state_machine, send side -/

/-- Everything ARQ.RETRY_STEP can answer (45 R89). -/
theorem retryStep_cases {k : Nat} {s t : State} (h : retryStep k s = .next t) :
    (∃ f, k < s.cfg.maxAttempts ∧ s.ackStatus ≠ .acked ∧ s.lastFrameSent = some f ∧
      t = transmit f { s with seqr := .attempted (k + 1) }) ∨
    ((s.cfg.maxAttempts ≤ k ∨ s.ackStatus = .acked) ∧ t = { s with sendSeq := nextSeq s.cfg s.sendSeq, seqr := .chunk }) := by
  unfold retryStep at h
  split at h
  · rename_i hc
    split at h
    · rename_i f hf; cases h; exact .inl ⟨f, hc.1, hc.2, hf, rfl⟩
    · cases h
  · rename_i hc
    cases h
    refine .inr ⟨?_, rfl⟩
    by_cases hk : k < s.cfg.maxAttempts
    · exact .inr (by simpa [hk] using hc)
    · exact .inl (by omega)

/-- Everything STEP in CHUNK can do (46 R105). -/
theorem chunkStep_cases (s : State) :
    (s.sendbuf = [] ∧ chunkStep s = { s with seqr := .idle }) ∨
    (s.sendbuf ≠ [] ∧ chunkStep s =
      { onSendRequested (nextChunk s.cfg s.sendbuf) s with
        sendbuf := afterChunk s.cfg s.sendbuf, seqr := .attempted 1 }) := by
  by_cases h : s.sendbuf = []
  · exact .inl ⟨h, by simp [chunkStep, h]⟩
  · exact .inr ⟨h, by simp [chunkStep, h, onSendRequested, transmit]⟩

/-! ## arq_state_machine, receive side -/

/-- Everything ARQ.ON_FRAME_RECEIVED can do (45 R91 to R97). -/
theorem onFrameReceived_cases (x : List Byte) (sig : Option Signal) (s : State) :
    (x.length < 2 ∧
      ((s.cfg.runtPolicy = .nack ∧ onFrameReceived x sig s = sendResponse .nack s) ∨
       (s.cfg.runtPolicy = .drop ∧ onFrameReceived x sig s = s) ∨
       (s.cfg.runtPolicy = .fault ∧ onFrameReceived x sig s = raiseFault .runtFrame s))) ∨
    (2 ≤ x.length ∧
      (onFrameReceived x sig s = { sendResponse .nack s with pendingSig := none } ∨
       onFrameReceived x sig s = { s with ackStatus := .acked, pendingSig := none } ∨
       onFrameReceived x sig s = { s with pendingSig := none } ∨
       (∃ f, s.lastFrameSent = none ∧ s.lastResponseFrame = some f ∧
         onFrameReceived x sig s = { transmit f s with pendingSig := none }) ∨
       ∃ data, onFrameReceived x sig s =
         { sendResponse .ack { clientReceive data s with recvSeq := nextSeq s.cfg s.recvSeq } with pendingSig := none })) := by
  match x with
  | [] => left; cases h : s.cfg.runtPolicy <;> simp [onFrameReceived, onRunt, h]
  | [_] => left; cases h : s.cfg.runtPolicy <;> simp [onFrameReceived, onRunt, h]
  | q :: r :: data =>
    right
    refine ⟨by simp, ?_⟩
    by_cases hp : parityOk r data = true
    · match sig with
      | some .ack => right; left; simp [onFrameReceived, frameDecision, hp]
      | some .nack =>
        cases hf : s.lastFrameSent with
        | some f => right; right; left; simp [onFrameReceived, frameDecision, hp, onNack, State.noFrameOutstanding, hf]
        | none =>
          cases hr : s.lastResponseFrame with
          | some f =>
            right; right; right; left
            refine ⟨f, rfl, rfl, ?_⟩
            simp [onFrameReceived, frameDecision, hp, onNack, State.noFrameOutstanding, hf, hr, transmit]
          | none =>
            right; right; left
            simp [onFrameReceived, frameDecision, hp, onNack, State.noFrameOutstanding, hf, hr]
      | none =>
        by_cases hq : q = s.recvSeq
        · right; right; right; right
          refine ⟨data, ?_⟩
          simp [onFrameReceived, frameDecision, hp, onData, hq, sendResponse, transmit, clientReceive, State.response,
            State.responseSeq]
        · left
          simp [onFrameReceived, frameDecision, hp, onData, hq, sendResponse, transmit, State.response,
            State.responseSeq]
    · left
      simp [onFrameReceived, frameDecision, hp, sendResponse, transmit, State.response, State.responseSeq]

/-- Everything DELIVER can do to the state (46 R103). -/
theorem deliverBit_cases (c : Bit) (s : State) :
    (s.bitq.length ≠ 7 ∧ deliverBit c s = { s with bitq := s.bitq ++ [c] }) ∨
    (s.bitq.length = 7 ∧ ∃ v, pushBit s.bitq c = ([], some v) ∧
      ((s.cfg.rxBufDepth = some s.rxbuf.length ∧
          deliverBit c s = { s with bitq := [], fault := some .rxbufOverflow }) ∨
       (s.cfg.rxBufDepth ≠ some s.rxbuf.length ∧ tryExtract s.cfg (s.rxbuf ++ [v]) = .incomplete ∧
          deliverBit c s = { s with bitq := [], rxbuf := s.rxbuf ++ [v] }) ∨
       (∃ x sig n, s.cfg.rxBufDepth ≠ some s.rxbuf.length ∧ tryExtract s.cfg (s.rxbuf ++ [v]) = .complete x sig n ∧
          deliverBit c s = onFrameReceived x sig { s with bitq := [], rxbuf := (s.rxbuf ++ [v]).drop n }))) := by
  rcases pushBit_cases s.bitq c with ⟨h7, e⟩ | ⟨h7, v, e⟩
  · exact .inl ⟨h7, by simp [deliverBit, e]⟩
  · refine .inr ⟨h7, v, e, ?_⟩
    by_cases hfull : s.cfg.rxBufDepth = some s.rxbuf.length
    · exact .inl ⟨hfull, by simp [deliverBit, e, receiveByte, State.rxbufFull, hfull, raiseFault]⟩
    · cases hx : tryExtract s.cfg (s.rxbuf ++ [v]) with
      | incomplete =>
        exact .inr (.inl ⟨hfull, rfl, by
          simp [deliverBit, e, receiveByte, State.rxbufFull, hfull, scanReceived, hx]⟩)
      | complete x sig n =>
        exact .inr (.inr ⟨x, sig, n, hfull, rfl, by
          simp [deliverBit, e, receiveByte, State.rxbufFull, hfull, scanReceived, hx]⟩)

/-! ## The events, inverted -/

theorem exec_deliver_eq_next {c : Bit} {s t : State} :
    exec (.deliver c) s = .next t ↔ s.fault = none ∧ t = deliverBit c s := by
  simp only [exec, execDeliver, unlessFaulted_eq_next, Host.Outcome.next.injEq]
  exact and_congr_right fun _ => eq_comm

theorem exec_send_eq_next {p : List Byte} {s t : State} :
    exec (.send p) s = .next t ↔
      s.fault = none ∧ s.seqr = .idle ∧ p.length ≤ s.cfg.sendLenMax ∧
      t = { s with sendbuf := s.sendbuf ++ p, seqr := .chunk } := by
  simp only [exec, execSend, unlessFaulted_eq_next]
  constructor
  · rintro ⟨hf, h⟩
    split at h
    · cases h
    · rename_i hi
      split at h
      · cases h
      · rename_i hl; cases h; exact ⟨hf, by simpa using hi, by omega, rfl⟩
  · rintro ⟨hf, hi, hl, rfl⟩
    exact ⟨hf, by simp [hi, Nat.not_lt.mpr hl]⟩

/-- Everything STEP can answer (46 R105). -/
theorem exec_step_cases {s t : State} (h : exec .step s = .next t) :
    s.fault = none ∧
    ((s.seqr = .chunk ∧ t = chunkStep s) ∨ ∃ k, s.seqr = .attempted k ∧ retryStep k s = .next t) := by
  simp only [exec, execStep, unlessFaulted_eq_next] at h
  obtain ⟨hf, h⟩ := h
  refine ⟨hf, ?_⟩
  cases hq : s.seqr with
  | idle => simp [hq] at h
  | chunk => simp [hq] at h; exact .inl ⟨rfl, h.symm⟩
  | attempted k => simp [hq] at h; exact .inr ⟨k, rfl, h⟩

theorem exec_arqRetryStep_eq_next {s t : State} :
    exec .arqRetryStep s = .next t ↔ s.fault = none ∧ ∃ k, s.seqr = .attempted k ∧ retryStep k s = .next t := by
  simp only [exec, execArqRetryStep, unlessFaulted_eq_next]
  cases hq : s.seqr <;> simp

end Sys2Proof.Machine
end

