-- ==== Sys2Proof/Laws/Codec.lean ====
section
/-! SUPPORT. Small lemmas of the codec functions: byte classes, escaping, and the scan loop one byte at a time. -/

namespace Sys2Proof.Machine

/-! ## Tags and classes -/

theorem isReserved_iff {cfg : Config} {b : Byte} : isReserved cfg b = true ↔ b ∈ cfg.tags := by
  simp [isReserved, Config.tags]

/-- The tags are distinct where the parameters are legal (00 R6). -/
theorem tags_distinct {cfg : Config} (h : cfg.wf) :
    cfg.start ≠ cfg.stop ∧ cfg.start ≠ cfg.escape ∧ cfg.start ≠ cfg.response ∧ cfg.start ≠ cfg.nresponse ∧
    cfg.stop ≠ cfg.escape ∧ cfg.stop ≠ cfg.response ∧ cfg.stop ≠ cfg.nresponse ∧
    cfg.escape ≠ cfg.response ∧ cfg.escape ≠ cfg.nresponse ∧ cfg.response ≠ cfg.nresponse := by
  have := h.1
  simp only [Config.tags, List.nodup_cons, List.mem_cons, List.not_mem_nil, or_false, not_or] at this
  tauto

theorem not_mem_tags {cfg : Config} {b : Byte} :
    b ∉ cfg.tags ↔ b ≠ cfg.start ∧ b ≠ cfg.stop ∧ b ≠ cfg.escape ∧ b ≠ cfg.response ∧ b ≠ cfg.nresponse := by
  simp [Config.tags]

theorem classify_of_not_mem {cfg : Config} {b : Byte} (h : b ∉ cfg.tags) (st : ScanState) :
    classify cfg b st = .data := by
  obtain ⟨h1, h2, h3, h4, h5⟩ := not_mem_tags.mp h
  simp [classify, h1, h2, h3, h4, h5]

theorem classify_escape (cfg : Config) (st : ScanState) : classify cfg cfg.escape st = .esc := by
  simp [classify]

theorem classify_stop {cfg : Config} (h : cfg.wf) (st : ScanState) : classify cfg cfg.stop st = .stopC := by
  obtain ⟨-, -, -, -, h1, h2, h3, -⟩ := tags_distinct h
  simp [classify, h1, h2, h3]

theorem classify_start {cfg : Config} (h : cfg.wf) (st : ScanState) : classify cfg cfg.start st = .startC := by
  obtain ⟨h1, h2, h3, h4, -⟩ := tags_distinct h
  simp [classify, h1, h2, h3, h4]

theorem classify_response {cfg : Config} (h : cfg.wf) : classify cfg cfg.response .inFrame = .sigAck := by
  obtain ⟨-, -, -, -, -, -, -, h1, -⟩ := tags_distinct h
  simp [classify, h1.symm]

theorem classify_nresponse {cfg : Config} (h : cfg.wf) : classify cfg cfg.nresponse .inFrame = .sigNack := by
  obtain ⟨-, -, -, -, -, -, -, -, h1, h2⟩ := tags_distinct h
  simp [classify, h1.symm, h2.symm]

/-- Neither parity byte is a tag (00 R6), so PARITY is always DATA (30 R55). -/
theorem zext8_not_mem {cfg : Config} (h : cfg.wf) (c : Bit) : zext8 c ∉ cfg.tags := by
  obtain ⟨-, -, -, h0, h1, -⟩ := h
  cases c
  · exact h0
  · exact h1

/-! ## The scan loop, one byte at a time -/

theorem scanFrom_nil (cfg : Config) (sc : Scan) : scanFrom cfg sc [] = .incomplete := rfl

/-- The loop body of R74 at the next byte. -/
theorem scanFrom_cons (cfg : Config) (sc : Scan) (b : Byte) (rest : List Byte) :
    scanFrom cfg sc (b :: rest) =
      match classify cfg b sc.st with
      | .esc => (match rest with | [] => .incomplete | v :: rest' => scanFrom cfg (sc.takeLiteral v) rest')
      | .sigAck => scanFrom cfg (sc.recordSignal .ack) rest
      | .sigNack => scanFrom cfg (sc.recordSignal .nack) rest
      | .stopC => sc.finish
      | .startC => scanFrom cfg sc.enterFrame rest
      | .data => scanFrom cfg (sc.takeData b) rest := by
  exact (scanFrom.eq_def cfg sc (b :: rest)).trans rfl

theorem scanFrom_data {cfg : Config} {sc : Scan} {b : Byte} (h : classify cfg b sc.st = .data) (rest : List Byte) :
    scanFrom cfg sc (b :: rest) = scanFrom cfg (sc.takeData b) rest := by
  simp [scanFrom_cons, h]

theorem scanFrom_escape (cfg : Config) (sc : Scan) (v : Byte) (rest : List Byte) :
    scanFrom cfg sc (cfg.escape :: v :: rest) = scanFrom cfg (sc.takeLiteral v) rest := by
  simp [scanFrom_cons, classify_escape]

theorem scanFrom_stop {cfg : Config} (h : cfg.wf) (sc : Scan) (rest : List Byte) :
    scanFrom cfg sc (cfg.stop :: rest) = sc.finish := by
  simp [scanFrom_cons, classify_stop h]

theorem scanFrom_start {cfg : Config} (h : cfg.wf) (sc : Scan) (rest : List Byte) :
    scanFrom cfg sc (cfg.start :: rest) = scanFrom cfg sc.enterFrame rest := by
  simp [scanFrom_cons, classify_start h]

theorem scanFrom_response {cfg : Config} (h : cfg.wf) {sc : Scan} (hs : sc.st = .inFrame) (rest : List Byte) :
    scanFrom cfg sc (cfg.response :: rest) = scanFrom cfg (sc.recordSignal .ack) rest := by
  simp [scanFrom_cons, hs, classify_response h]

theorem scanFrom_nresponse {cfg : Config} (h : cfg.wf) {sc : Scan} (hs : sc.st = .inFrame) (rest : List Byte) :
    scanFrom cfg sc (cfg.nresponse :: rest) = scanFrom cfg (sc.recordSignal .nack) rest := by
  simp [scanFrom_cons, hs, classify_nresponse h]

/-- Bytes after the STOP "are not scanned" (43 R77): a COMPLETE result does not depend on them. -/
theorem scanFrom_append {cfg : Config} {buf : List Byte} {sc : Scan} {x : List Byte} {sig : Option Signal} {n : Nat}
    (h : scanFrom cfg sc buf = .complete x sig n) (rest : List Byte) :
    scanFrom cfg sc (buf ++ rest) = .complete x sig n := by
  fun_induction scanFrom cfg sc buf with
  | case1 => cases h
  | case2 sc b hc => cases h
  | case3 sc b hc v rest' ih => simpa [scanFrom_cons, hc] using ih h
  | case4 sc b rest' hc ih => simpa [scanFrom_cons, hc] using ih h
  | case5 sc b rest' hc ih => simpa [scanFrom_cons, hc] using ih h
  | case6 sc b rest' hc => simpa [scanFrom_cons, hc] using h
  | case7 sc b rest' hc ih => simpa [scanFrom_cons, hc] using ih h
  | case8 sc b rest' hc ih => simpa [scanFrom_cons, hc] using ih h

/-- What a COMPLETE scan consumes: at least one byte, and none that is not there (43 R81). -/
theorem scanFrom_consumed {cfg : Config} {buf : List Byte} {sc : Scan} {x : List Byte} {sig : Option Signal} {n : Nat}
    (h : scanFrom cfg sc buf = .complete x sig n) : sc.i + 1 ≤ n ∧ n ≤ sc.i + buf.length := by
  fun_induction scanFrom cfg sc buf with
  | case1 => cases h
  | case2 sc b hc => cases h
  | case3 sc b hc v rest' ih => have := ih h; simp [Scan.takeLiteral] at this ⊢; omega
  | case4 sc b rest' hc ih => have := ih h; simp [Scan.recordSignal] at this ⊢; omega
  | case5 sc b rest' hc ih => have := ih h; simp [Scan.recordSignal] at this ⊢; omega
  | case6 sc b rest' hc => simp only [Scan.finish, Extract.complete.injEq] at h; simp; omega
  | case7 sc b rest' hc ih => have := ih h; simp [Scan.enterFrame] at this ⊢; omega
  | case8 sc b rest' hc ih => have := ih h; simp [Scan.takeData] at this ⊢; omega

/-! ## Bits -/

theorem frameBits_nil : frameBits [] = [] := rfl

theorem frameBits_cons (b : Byte) (f : List Byte) : frameBits (b :: f) = byteBits b ++ frameBits f := rfl

theorem frameBits_length (f : List Byte) : (frameBits f).length = 8 * f.length := by
  induction f with
  | nil => rfl
  | cons b f ih => rw [frameBits_cons, List.length_append, byteBits_length, ih, List.length_cons]; omega

/-- The set bits of a byte list are the 1s among the bits it is sent as. -/
theorem setBits_eq_count (bs : List Byte) : setBits bs = (frameBits bs).count true := by
  induction bs with
  | nil => rfl
  | cons b bs ih => rw [setBits, ih, frameBits_cons, List.count_append, popcount]

end Sys2Proof.Machine
end

