-- ==== Sys2Proof/Laws/PerInstr.lean ====
section
/-! SUPPORT. Statements for all instructions, one lemma for each constructor. `EncodedOp`: the word of an
instruction begins with a byte that matches its row of the opcode table, in the row's format. -/

namespace Sys2Proof.Laws

/-- The word's first byte matches a row of the instruction's own format, under the default parameters. -/
def EncodedOp.Statement (i : Instr) : Prop :=
  ∃ r ∈ opcodeTable, r.port = i.port ∧ ∃ b rest, encode Config.default i = b :: rest ∧ r.matchesByte b = true

theorem EncodedOp.reset : EncodedOp.Statement .reset :=
  ⟨⟨.event, 0x00, 0xFF⟩, by decide, rfl, _, _, rfl, by decide⟩

theorem EncodedOp.deliver (c : Bit) : EncodedOp.Statement (.deliver c) :=
  ⟨⟨.event, 0x02, 0xFE⟩, by decide, rfl, _, _, rfl, by cases c <;> decide⟩

theorem EncodedOp.send (p : List Byte) : EncodedOp.Statement (.send p) :=
  ⟨⟨.event, 0x10, 0xFF⟩, by decide, rfl, _, _, rfl, by decide⟩

theorem EncodedOp.step : EncodedOp.Statement .step :=
  ⟨⟨.event, 0x20, 0xFF⟩, by decide, rfl, _, _, rfl, by decide⟩

theorem EncodedOp.baPush (c : Bit) : EncodedOp.Statement (.baPush c) :=
  ⟨⟨.function, 0x40, 0xFF⟩, by decide, rfl, _, _, rfl, by decide⟩

theorem EncodedOp.escIsReserved (b : Byte) : EncodedOp.Statement (.escIsReserved b) :=
  ⟨⟨.function, 0x48, 0xFF⟩, by decide, rfl, _, _, rfl, by decide⟩

theorem EncodedOp.escStuff (p : List Byte) : EncodedOp.Statement (.escStuff p) :=
  ⟨⟨.function, 0x49, 0xFF⟩, by decide, rfl, _, _, rfl, by decide⟩

theorem EncodedOp.escClassify (b : Byte) (st : ScanState) : EncodedOp.Statement (.escClassify b st) :=
  ⟨⟨.function, 0x4A, 0xFF⟩, by decide, rfl, _, _, rfl, by decide⟩

theorem EncodedOp.feEncode (p : List Byte) (q : Byte) : EncodedOp.Statement (.feEncode p q) :=
  ⟨⟨.function, 0x50, 0xFF⟩, by decide, rfl, _, _, rfl, by decide⟩

theorem EncodedOp.feEncodeResponse (sig : Signal) (q : Byte) : EncodedOp.Statement (.feEncodeResponse sig q) :=
  ⟨⟨.function, 0x51, 0xFF⟩, by decide, rfl, _, _, rfl, by decide⟩

theorem EncodedOp.feTransmit (f : List Byte) : EncodedOp.Statement (.feTransmit f) :=
  ⟨⟨.function, 0x52, 0xFF⟩, by decide, rfl, _, _, rfl, by decide⟩

theorem EncodedOp.fdTryExtract (buf : List Byte) : EncodedOp.Statement (.fdTryExtract buf) :=
  ⟨⟨.function, 0x58, 0xFF⟩, by decide, rfl, _, _, rfl, by decide⟩

theorem EncodedOp.pcParity (bs : List Byte) : EncodedOp.Statement (.pcParity bs) :=
  ⟨⟨.function, 0x60, 0xFF⟩, by decide, rfl, _, _, rfl, by decide⟩

theorem EncodedOp.pcCheck (r : Byte) (data : List Byte) : EncodedOp.Statement (.pcCheck r data) :=
  ⟨⟨.function, 0x61, 0xFF⟩, by decide, rfl, _, _, rfl, by decide⟩

theorem EncodedOp.arqOnSendRequested (c : List Byte) : EncodedOp.Statement (.arqOnSendRequested c) :=
  ⟨⟨.function, 0x68, 0xFF⟩, by decide, rfl, _, _, rfl, by decide⟩

theorem EncodedOp.arqRetryStep : EncodedOp.Statement .arqRetryStep :=
  ⟨⟨.function, 0x69, 0xFF⟩, by decide, rfl, _, _, rfl, by decide⟩

theorem EncodedOp.arqSendResponse (sig : Signal) : EncodedOp.Statement (.arqSendResponse sig) :=
  ⟨⟨.function, 0x6A, 0xFF⟩, by decide, rfl, _, _, rfl, by decide⟩

theorem EncodedOp.arqOnFrameReceived (x : List Byte) (sig : Option Signal) : EncodedOp.Statement (.arqOnFrameReceived x sig) :=
  ⟨⟨.function, 0x6B, 0xFF⟩, by decide, rfl, _, _, rfl, by decide⟩

theorem EncodedOp.wireEscape (next : Option Byte) : EncodedOp.Statement (.wireEscape next) :=
  ⟨⟨.wire, 0x5C, 0xFF⟩, by decide, rfl, 0x5C, next.toList, by cases next <;> rfl, by decide⟩

theorem EncodedOp.wireSignalAck : EncodedOp.Statement .wireSignalAck :=
  ⟨⟨.wire, 0x7E, 0xFF⟩, by decide, rfl, _, _, rfl, by decide⟩

theorem EncodedOp.wireSignalNack : EncodedOp.Statement .wireSignalNack :=
  ⟨⟨.wire, 0x81, 0xFF⟩, by decide, rfl, _, _, rfl, by decide⟩

theorem EncodedOp.wireStop : EncodedOp.Statement .wireStop :=
  ⟨⟨.wire, 0x7D, 0xFF⟩, by decide, rfl, _, _, rfl, by decide⟩

theorem EncodedOp.wireStart : EncodedOp.Statement .wireStart :=
  ⟨⟨.wire, 0x7B, 0xFF⟩, by decide, rfl, _, _, rfl, by decide⟩

theorem EncodedOp.wireData (v : Byte) : EncodedOp.Statement (.wireData v) :=
  ⟨⟨.wire, 0x00, 0x00⟩, by decide, rfl, _, _, rfl, by simp [OpcodeRow.matchesByte]⟩

end Sys2Proof.Laws
end

