-- ==== Sys2Proof/Laws/Rows.lean ====
section
/-! SUPPORT. What each kind of row leaves alone, and one inversion lemma for `exec`: proofs over all rows go by its
cases and do not unfold the meanings. -/

namespace Sys2Proof.Machine

/-! ## Frames of the shared operations -/

/-- What processing a received frame never writes (45 R91 to R97). -/
theorem onFrameReceived_frame (x : List Byte) (sig : Option Signal) (s : State) :
    let t := onFrameReceived x sig s
    t.seqr = s.seqr ∧ t.sendSeq = s.sendSeq ∧ t.sendbuf = s.sendbuf ∧ t.lastFrameSent = s.lastFrameSent ∧
    t.cfg = s.cfg ∧ t.port = s.port ∧ t.stream = s.stream ∧ t.ret = s.ret ∧ t.scan = s.scan ∧ t.bitq = s.bitq ∧
    t.rxbuf = s.rxbuf := by
  rcases onFrameReceived_cases x sig s with
    ⟨_, ⟨_, h⟩ | ⟨_, h⟩ | ⟨_, h⟩⟩ | ⟨_, h | h | h | ⟨f, _, _, h⟩ | ⟨d, h⟩⟩ <;> simp [h]

/-- The fault a received frame can raise (60 R114). -/
theorem onFrameReceived_fault (x : List Byte) (sig : Option Signal) {s : State} (hf : s.fault = none) :
    (onFrameReceived x sig s).fault = none ∨
    (x.length < 2 ∧ s.cfg.runtPolicy = .fault ∧ onFrameReceived x sig s = { s with fault := some .runtFrame }) := by
  rcases onFrameReceived_cases x sig s with
    ⟨hx, ⟨_, h⟩ | ⟨_, h⟩ | ⟨hp, h⟩⟩ | ⟨_, h | h | h | ⟨f, _, _, h⟩ | ⟨d, h⟩⟩ <;> simp [h, hf]
  exact ⟨by omega, hp, rfl⟩

/-- What a retry iteration never writes (45 R89). -/
theorem retryStep_frame {k : Nat} {s t : State} (h : retryStep k s = .next t) :
    t.bitq = s.bitq ∧ t.rxbuf = s.rxbuf ∧ t.recvSeq = s.recvSeq ∧ t.pendingSig = s.pendingSig ∧
    t.lastResponseFrame = s.lastResponseFrame ∧ t.fault = s.fault ∧ t.clientlog = s.clientlog ∧ t.cfg = s.cfg ∧
    t.port = s.port ∧ t.stream = s.stream ∧ t.ret = s.ret ∧ t.scan = s.scan := by
  rcases retryStep_cases h with ⟨f, _, _, _, rfl⟩ | ⟨_, rfl⟩ <;> simp

/-- What STEP in CHUNK never writes (46 R105). -/
theorem chunkStep_frame (s : State) :
    let t := chunkStep s
    t.bitq = s.bitq ∧ t.rxbuf = s.rxbuf ∧ t.recvSeq = s.recvSeq ∧ t.pendingSig = s.pendingSig ∧
    t.lastResponseFrame = s.lastResponseFrame ∧ t.fault = s.fault ∧ t.clientlog = s.clientlog ∧ t.cfg = s.cfg ∧
    t.port = s.port ∧ t.stream = s.stream ∧ t.ret = s.ret ∧ t.scan = s.scan := by
  rcases chunkStep_cases s with ⟨_, h⟩ | ⟨_, h⟩ <;> simp [h]

/-! ## Rows that leave the block alone -/

/-- Equal blocks are equal in every field the spec gives the block. -/
theorem block_fields {s t : State} (h : t.block = s.block) :
    t.cfg = s.cfg ∧ t.bitq = s.bitq ∧ t.rxbuf = s.rxbuf ∧ t.sendbuf = s.sendbuf ∧ t.sendSeq = s.sendSeq ∧
    t.recvSeq = s.recvSeq ∧ t.ackStatus = s.ackStatus ∧ t.pendingSig = s.pendingSig ∧
    t.lastFrameSent = s.lastFrameSent ∧ t.lastResponseFrame = s.lastResponseFrame ∧ t.seqr = s.seqr ∧
    t.fault = s.fault ∧ t.txlog = s.txlog ∧ t.clientlog = s.clientlog := by
  simpa [State.block] using h

/-- A row either is one that writes the block's state, or leaves the block as it was. -/
theorem exec_block_or {i : Instr} {s t : State} (h : exec i s = .next t) :
    i = .reset ∨ (∃ c, i = .deliver c) ∨ (∃ p, i = .send p) ∨ i = .step ∨ (∃ c, i = .baPush c) ∨
    (∃ f, i = .feTransmit f) ∨ (∃ c, i = .arqOnSendRequested c) ∨ i = .arqRetryStep ∨
    (∃ sig, i = .arqSendResponse sig) ∨ (∃ x sig, i = .arqOnFrameReceived x sig) ∨ t.block = s.block := by
  cases i <;> try simp
  case feEncode p q =>
    simp only [exec, execFeEncode, ifFitsFrame_eq_next, Host.Outcome.next.injEq] at h
    obtain ⟨-, rfl⟩ := h; rfl
  case wireEscape n => cases n <;> (cases h; rfl)
  all_goals (cases h; rfl)

/-! ## All rows -/

/-- Everything a row can answer with a next state: RESET's state, the block as it was, or, without a fault, what its
own rule gives. -/
theorem exec_effect {i : Instr} {s t : State} (h : exec i s = .next t) :
    (i = .reset ∧ t = resetState s) ∨ t.block = s.block ∨
    (s.fault = none ∧
      ((∃ c, i = .deliver c ∧ t = deliverBit c s) ∨
       (∃ p, i = .send p ∧ s.seqr = .idle ∧ p.length ≤ s.cfg.sendLenMax ∧
          t = { s with sendbuf := s.sendbuf ++ p, seqr := .chunk }) ∨
       (i = .step ∧ s.seqr = .chunk ∧ t = chunkStep s) ∨
       ((i = .step ∨ i = .arqRetryStep) ∧ ∃ k, s.seqr = .attempted k ∧ retryStep k s = .next t) ∨
       (∃ c, i = .baPush c ∧
          t = returning (.optByte (pushBit s.bitq c).2) { s with bitq := (pushBit s.bitq c).1 }) ∨
       (∃ f, i = .feTransmit f ∧ t = transmit f s) ∨
       (∃ c, i = .arqOnSendRequested c ∧ c.length ≤ s.cfg.maxFrameSize ∧ t = onSendRequested c s) ∨
       (∃ sig, i = .arqSendResponse sig ∧ t = sendResponse sig s) ∨
       (∃ x sig, i = .arqOnFrameReceived x sig ∧ t = onFrameReceived x sig s))) := by
  rcases exec_block_or h with rfl | ⟨c, rfl⟩ | ⟨p, rfl⟩ | rfl | ⟨c, rfl⟩ | ⟨f, rfl⟩ | ⟨c, rfl⟩ | rfl | ⟨sig, rfl⟩ |
    ⟨x, sig, rfl⟩ | hb
  · cases h; exact .inl ⟨rfl, rfl⟩
  · obtain ⟨hf, rfl⟩ := exec_deliver_eq_next.mp h; exact .inr (.inr ⟨hf, by simp⟩)
  · obtain ⟨hf, h1, h2, rfl⟩ := exec_send_eq_next.mp h; exact .inr (.inr ⟨hf, by simp [h1, h2]⟩)
  · obtain ⟨hf, ⟨h1, rfl⟩ | ⟨k, h1, h2⟩⟩ := exec_step_cases h
    · exact .inr (.inr ⟨hf, by simp [h1]⟩)
    · exact .inr (.inr ⟨hf, .inr (.inr (.inr (.inl ⟨.inl rfl, k, h1, h2⟩)))⟩)
  · simp only [exec, execBaPush, unlessFaulted_eq_next, Host.Outcome.next.injEq] at h
    obtain ⟨hf, rfl⟩ := h; exact .inr (.inr ⟨hf, by simp⟩)
  · simp only [exec, execFeTransmit, unlessFaulted_eq_next, Host.Outcome.next.injEq] at h
    obtain ⟨hf, rfl⟩ := h; exact .inr (.inr ⟨hf, by simp⟩)
  · simp only [exec, execArqOnSendRequested, unlessFaulted_eq_next, ifFitsFrame_eq_next,
      Host.Outcome.next.injEq] at h
    obtain ⟨hf, hl, rfl⟩ := h; exact .inr (.inr ⟨hf, by simp [hl]⟩)
  · obtain ⟨hf, k, h1, h2⟩ := exec_arqRetryStep_eq_next.mp h
    exact .inr (.inr ⟨hf, .inr (.inr (.inr (.inl ⟨.inr rfl, k, h1, h2⟩)))⟩)
  · simp only [exec, execArqSendResponse, unlessFaulted_eq_next, Host.Outcome.next.injEq] at h
    obtain ⟨hf, rfl⟩ := h; exact .inr (.inr ⟨hf, by simp⟩)
  · simp only [exec, execArqOnFrameReceived, unlessFaulted_eq_next, Host.Outcome.next.injEq] at h
    obtain ⟨hf, rfl⟩ := h; exact .inr (.inr ⟨hf, by simp⟩)
  · exact .inr (.inl hb)

end Sys2Proof.Machine
end

