-- ==== Sys2Proof/Laws/Run.lean ====
section
/-! SUPPORT. Small lemmas of running: one step inverted, events appended, the host's run one step at a time. -/

namespace Sys2Proof.Machine

/-- Everything a step can answer with a next state: nothing done, the internal STEP, or an offered word's row. -/
theorem step_cases {s t : State} (h : step s = .next t) :
    t = s ∨ exec .step s = .next t ∨ ∃ i rest, exec i { s with stream := rest } = .next t := by
  unfold step at h
  split at h
  · exact .inr (.inr ⟨_, _, h⟩)
  · exact .inr (.inl h)
  · cases h; exact .inl rfl
  · cases h

theorem runEvents_append (as bs : List Instr) (s : State) :
    runEvents (as ++ bs) s = andThen (runEvents as s) (runEvents bs) := by
  induction as generalizing s with
  | nil => rfl
  | cons a as ih =>
    simp only [List.cons_append, runEvents]
    cases exec a s <;> simp [andThen, ih]

theorem deliverEvents_append (as bs : List Bit) :
    deliverEvents (as ++ bs) = deliverEvents as ++ deliverEvents bs := by
  simp [deliverEvents]

theorem run_next (M : Host.Core) (k : Nat) {s t : M.State} (h : M.step s = .next t) :
    M.run (k + 1) s = M.run k t := by
  simp only [Host.Core.run, h]

/-- The host's run, one step peeled off; `rw` cannot see through `core`, so it is a lemma of its own. -/
theorem core_run_next (k : Nat) {s t : State} (h : step s = .next t) :
    Sys2Proof.core.run (k + 1) s = Sys2Proof.core.run k t :=
  run_next Sys2Proof.core k h

end Sys2Proof.Machine
end

