-- ==== Sys2Proof/Laws/Words.lean ====
section
/-! SUPPORT. Small lemmas of the decoder's operand readers, each with its inverse. -/

namespace Sys2Proof

theorem listLength_bytes {n : Nat} (h : n < 65536) :
    256 * (BitVec.ofNat 8 (n / 256)).toNat + (BitVec.ofNat 8 n).toNat = n := by
  simp only [BitVec.toNat_ofNat]; omega

/-- An encoded list operand is read back, and what follows it stays. -/
theorem withList_encodeList (mk : List Byte → Instr) {p : List Byte} (rest : List Byte) (h : p.length < 65536) :
    withList mk (encodeList p ++ rest) = .ok (mk p, rest) := by
  simp only [encodeList, List.cons_append, withList, listLength_bytes h]
  simp

/-- What reads as a list operand is an encoded one. -/
theorem withList_ok {mk : List Byte → Instr} {bs rest : List Byte} {i : Instr} (h : withList mk bs = .ok (i, rest)) :
    ∃ p, p.length < 65536 ∧ i = mk p ∧ bs = encodeList p ++ rest := by
  match bs with
  | [] => simp [withList] at h
  | [_] => simp [withList] at h
  | hi :: lo :: r =>
    simp only [withList] at h
    split at h
    · rename_i hn
      simp only [Except.ok.injEq, Prod.mk.injEq] at h
      obtain ⟨rfl, rfl⟩ := h
      have h1 := hi.isLt
      have h2 := lo.isLt
      refine ⟨_, ?_, rfl, ?_⟩
      · simp; omega
      · simp only [encodeList, List.length_take, Nat.min_eq_left hn, List.cons_append, List.take_append_drop]
        congr 1
        · apply BitVec.eq_of_toNat_eq; simp; omega
        · congr 1; apply BitVec.eq_of_toNat_eq; simp; omega
    · cases h

theorem withByte_ok {mk : Byte → List Byte → Decoded} {bs : List Byte} {d : Instr × List Byte}
    (h : withByte mk bs = .ok d) : ∃ b r, bs = b :: r ∧ mk b r = .ok d := by
  cases bs <;> simp [withByte] at h ⊢; exact h

theorem bitOperand_ok {b : Byte} {c : Bit} (h : bitOperand b = .ok c) : b = encodeBit c := by
  unfold bitOperand at h; split_ifs at h with h1 h2 <;> cases h <;> simp [encodeBit, *]

theorem scanStateOperand_ok {b : Byte} {st : ScanState} (h : scanStateOperand b = .ok st) :
    b = encodeScanState st := by
  unfold scanStateOperand at h; split_ifs at h with h1 h2 <;> cases h <;> simp [encodeScanState, *]

theorem signalOperand_ok {b : Byte} {sig : Signal} (h : signalOperand b = .ok sig) : b = encodeSignal sig := by
  unfold signalOperand at h; split_ifs at h with h1 h2 <;> cases h <;> simp [encodeSignal, *]

theorem frameSignalOperand_ok {b : Byte} {sig : Option Signal} (h : frameSignalOperand b = .ok sig) :
    b = encodeFrameSignal sig := by
  unfold frameSignalOperand at h; split_ifs at h with h1 h2 h3 <;> cases h <;> simp [encodeFrameSignal, *]

theorem except_map_ok {α β : Type} {e : Except DecodeError α} {f : α → β} {y : β} (h : e.map f = .ok y) :
    ∃ a, e = .ok a ∧ f a = y := by
  cases e <;> simp [Except.map] at h ⊢; exact h

theorem except_bind_ok {α β : Type} {e : Except DecodeError α} {f : α → Except DecodeError β} {y : β}
    (h : e.bind f = .ok y) : ∃ a, e = .ok a ∧ f a = .ok y := by
  cases e <;> simp [Except.bind] at h ⊢; exact h

end Sys2Proof
end

