-- ==== Sys2Proof/Tests/Slice0.lean ====
section
/-! SUPPORT. Tests: ill-formed terms refused, words written out from 30_encoding.md decoded, one step of every row with
the result a table or a rule of the spec gives, and for every statement with hypotheses a witness that meets them. -/

namespace Sys2Proof.Tests

open Sys2Proof.Machine

/-! ## Small states, and ways to look at an answer -/

/-- The state a next answer carries. -/
def stateOf : Answer → Option State
  | .next s => some s
  | .fault _ => none
  | .refused _ => none

/-- The reason of a refusal. -/
def refusalOf : Answer → Option Refusal
  | .next _ => none
  | .fault _ => none
  | .refused r => some r

/-- One instruction from a state. -/
def after (i : Instr) (s : State) : Option State := stateOf (exec i s)

/-- A SEND in progress with a chunk to build. -/
def chunked (p : List Byte) : State := { State.reset with sendbuf := p, seqr := .chunk }

/-- The one-byte frame of payload 41 and SEQ 00 (95, V-L1-3). -/
def frame41 : List Byte := [0x7B, 0x00, 0x00, 0x41, 0x7D]

/-- A SEND whose k-th attempt has been made. -/
def attempting (k : Nat) : State :=
  { State.reset with seqr := .attempted k, lastFrameSent := some frame41, ackStatus := .awaitingAck }

/-- A faulted block whose buffer of depth 2 is full. -/
def faulted : State :=
  { State.powerOn { Config.default with rxBufDepth := some 2 } with rxbuf := [0x55, 0x55], fault := some .rxbufOverflow }

/-- Seven bits of a byte: 0111110 and one to come (95, L2.1). -/
def sevenBits : List Bit := [false, true, true, true, true, true, false]

/-- The receive buffer before its last byte, which the eighth bit completes. -/
def almost (cfg : Config) (buf : List Byte) : State := { State.powerOn cfg with rxbuf := buf, bitq := sevenBits }

/-- Words offered at a port. -/
def offering (port : Port) (bs : List Byte) : State := { State.reset with port := port, stream := bs }

/-! ## Well-formedness: an ill-formed term for each check -/

theorem test_wf_list_too_long : (Instr.send (List.replicate 65536 0)).wf Config.default = false := by
  simp only [Instr.wf, fitsLength, List.length_replicate]; decide

theorem test_wf_list_longest : (Instr.escStuff (List.replicate 65535 0)).wf Config.default = true := by
  simp only [Instr.wf, fitsLength, List.length_replicate]; decide

theorem test_wf_payload_over_frame : (Instr.feEncode [1, 2, 3, 4, 5, 6, 7, 8, 9] 0x00).wf Config.default = false := by
  decide

theorem test_wf_chunk_over_frame : (Instr.arqOnSendRequested [1, 2, 3, 4, 5, 6, 7, 8, 9]).wf Config.default = false := by
  decide

theorem test_wf_tag_is_no_data : (Instr.wireData 0x7D).wf Config.default = false := by decide

theorem test_config_wf : Config.default.wf := by decide

theorem test_config_tags_must_differ : ¬({ Config.default with stop := 0x7B } : Config).wf := by decide

theorem test_config_parity_byte_is_no_tag : ¬({ Config.default with start := 0x01 } : Config).wf := by decide

theorem test_config_seq_fits_its_byte : ¬({ Config.default with seqWidth := 9 } : Config).wf := by decide

theorem test_config_initial_seq_out_of_width :
    ¬({ Config.default with seqWidth := 4, initSendSeq := 0x10 } : Config).wf := by decide

theorem test_config_initial_seq_at_the_edge :
    ({ Config.default with seqWidth := 4, initSendSeq := 0x0F } : Config).wf := by decide

/-- 92 D7: FF is followed by 00 at the default width; log entry 4: 0F is followed by 00 at width 4. -/
theorem test_seq_wraps : nextSeq Config.default 0xFF = 0x00 ∧ nextSeq Config.default 0x5B = 0x5C ∧
    nextSeq { Config.default with seqWidth := 4 } 0x0F = 0x00 := by decide

/-! ## Decoding: words written out from 30 R57, R58 and R52 (function operands: log entry 7) -/

/-- A word is read as an instruction, with nothing left. -/
def reads (port : Port) (bs : List Byte) (i : Instr) : Bool := decide (decode Config.default port bs = .ok (i, []))

theorem test_decode_reset : reads .event [0b00000000] .reset = true := by decide
theorem test_decode_deliver_0 : reads .event [0b00000010] (.deliver false) = true := by decide
theorem test_decode_deliver_1 : reads .event [0b00000011] (.deliver true) = true := by decide
theorem test_decode_send : reads .event [0b00010000, 0x00, 0x02, 0x48, 0x69] (.send [0x48, 0x69]) = true := by decide
theorem test_decode_step : reads .event [0b00100000] .step = true := by decide
theorem test_decode_baPush : reads .function [0b01000000, 0x01] (.baPush true) = true := by decide
theorem test_decode_escIsReserved : reads .function [0b01001000, 0x5C] (.escIsReserved 0x5C) = true := by decide
theorem test_decode_escStuff : reads .function [0b01001001, 0x00, 0x01, 0x7B] (.escStuff [0x7B]) = true := by decide
theorem test_decode_escClassify :
    reads .function [0b01001010, 0x7E, 0x01] (.escClassify 0x7E .inFrame) = true := by decide
theorem test_decode_feEncode :
    reads .function [0b01010000, 0x05, 0x00, 0x01, 0x41] (.feEncode [0x41] 0x05) = true := by decide
theorem test_decode_feEncodeResponse :
    reads .function [0b01010001, 0x01, 0xFF] (.feEncodeResponse .nack 0xFF) = true := by decide
theorem test_decode_feTransmit : reads .function [0b01010010, 0x00, 0x01, 0x81] (.feTransmit [0x81]) = true := by decide
theorem test_decode_fdTryExtract :
    reads .function [0b01011000, 0x00, 0x02, 0x41, 0x7D] (.fdTryExtract [0x41, 0x7D]) = true := by decide
theorem test_decode_pcParity : reads .function [0b01100000, 0x00, 0x00] (.pcParity []) = true := by decide
theorem test_decode_pcCheck : reads .function [0b01100001, 0x01, 0x00, 0x01, 0x40] (.pcCheck 0x01 [0x40]) = true := by
  decide
theorem test_decode_arqOnSendRequested :
    reads .function [0b01101000, 0x00, 0x01, 0x41] (.arqOnSendRequested [0x41]) = true := by decide
theorem test_decode_arqRetryStep : reads .function [0b01101001] .arqRetryStep = true := by decide
theorem test_decode_arqSendResponse : reads .function [0b01101010, 0x00] (.arqSendResponse .ack) = true := by decide
theorem test_decode_arqOnFrameReceived :
    reads .function [0b01101011, 0x02, 0x00, 0x02, 0x00, 0x00] (.arqOnFrameReceived [0, 0] (some .nack)) = true := by
  decide
theorem test_decode_wireEscape : reads .wire [0b01011100, 0x7D] (.wireEscape (some 0x7D)) = true := by decide
theorem test_decode_wireEscape_last : reads .wire [0b01011100] (.wireEscape none) = true := by decide
theorem test_decode_wireSignalAck : reads .wire [0b01111110] .wireSignalAck = true := by decide
theorem test_decode_wireSignalNack : reads .wire [0b10000001] .wireSignalNack = true := by decide
theorem test_decode_wireStop : reads .wire [0b01111101] .wireStop = true := by decide
theorem test_decode_wireStart : reads .wire [0b01111011] .wireStart = true := by decide
theorem test_decode_wireData : reads .wire [0b10000000] (.wireData 0x80) = true := by decide

/-- 30 R58: 04 is no event code, nor is a function code at the command port; a word cut short is none. -/
theorem test_decode_refuses :
    decode Config.default .event [0x04] = .error (.notAnEventCode 0x04) ∧
    decode Config.default .event [0x48, 0x00] = .error (.notAnEventCode 0x48) ∧
    decode Config.default .event [0x10, 0x00, 0x02, 0x48] = .error .incompleteWord ∧
    decode Config.default .function [0x40, 0x02] = .error (.notAnOperand 0x02) ∧
    decode Config.default .function [0x50, 0x00, 0x00, 0x09, 1, 2, 3, 4, 5, 6, 7, 8, 9] = .error .notWellFormed := by
  decide

/-- The rows of one format do not overlap; WIRE.DATA, the last row, is the rest. -/
theorem test_table_rows_do_not_overlap :
    (opcodeTable.take 23).Pairwise fun r q => r.port = q.port → (r.pattern ^^^ q.pattern) &&& r.mask &&& q.mask ≠ 0 := by
  decide

/-- The host's word of SEND, with an empty operand, and of WIRE.STOP. -/
theorem test_table_words :
    decodeTableWord 24 0x10 = some (.send []) ∧ decodeTableWord 8 0x7D = some .wireStop ∧
    decodeTableWord 8 0x41 = some (.wireData 0x41) := by
  decide

/-! ## One step of every row: results from 95_test_vectors.md and the rules -/

theorem test_reset_keeps_outputs :
    (after .reset { faulted with txlog := [true], sendSeq := 0x05 }).map (fun t => (t.fault, t.rxbuf, t.txlog, t.sendSeq)) =
      some (none, [], [true], 0x00) := by decide

/-- 0111110 and 0 make 7C, and 0111110 and 1 make 7D, the STOP. -/
theorem test_deliver_appends_the_byte :
    (after (.deliver false) (almost Config.default [0x7B])).map (fun t => (t.bitq, t.rxbuf)) = some ([], [0x7B, 0x7C]) := by
  decide

theorem test_deliver_stop_completes_the_frame :
    (after (.deliver true) (almost Config.default [0x7B, 0x00, 0x00, 0x41])).map (fun t => (t.rxbuf, t.clientlog)) =
      some ([], [[0x41]]) := by decide

theorem test_send_in_progress_refused : refusalOf (exec (.send [1]) (chunked [0x41])) = some .sendInProgress := by decide

theorem test_send_queues : (after (.send [0x48, 0x69]) State.reset).map (fun t => (t.sendbuf, t.seqr)) =
    some ([0x48, 0x69], .chunk) := by decide

/-- 95 P5: nine bytes go out as a chunk of eight and a chunk of one. -/
theorem test_step_takes_eight : (after .step (chunked [1, 2, 3, 4, 5, 6, 7, 8, 9])).map
    (fun t => (t.sendbuf, t.lastFrameSent, t.seqr)) =
    some ([9], some [0x7B, 0x00, 0x01, 1, 2, 3, 4, 5, 6, 7, 8, 0x7D], .attempted 1) := by decide

theorem test_step_tenth_attempt_was_the_last : (after .step (attempting 10)).map (fun t => (t.seqr, t.sendSeq, t.txlog)) =
    some (.chunk, 0x01, []) := by decide

/-- 95 L2.1: 0111101 and 1 make 7B. -/
theorem test_baPush_makes_7B :
    (after (.baPush true) { State.reset with bitq := [false, true, true, true, true, false, true] }).map
      (fun t => (t.bitq, t.ret)) = some ([], .optByte (some 0x7B)) := by decide

theorem test_escIsReserved : (after (.escIsReserved 0x81) State.reset).map (·.ret) = some (.bool true) ∧
    (after (.escIsReserved 0x84) State.reset).map (·.ret) = some (.bool false) := by decide

theorem test_escStuff : (after (.escStuff [0x41, 0x7B]) State.reset).map (·.ret) = some (.bytes [0x41, 0x5C, 0x7B]) := by
  decide

theorem test_escClassify : (after (.escClassify 0x7E .seeking) State.reset).map (·.ret) = some (.byteClass .data) ∧
    (after (.escClassify 0x7E .inFrame) State.reset).map (·.ret) = some (.byteClass .sigAck) := by decide

theorem test_feEncode : (after (.feEncode [0x41, 0x7B] 0x00) State.reset).map (·.ret) =
    some (.bytes [0x7B, 0x00, 0x00, 0x41, 0x5C, 0x7B, 0x7D]) := by decide

theorem test_feEncodeResponse : (after (.feEncodeResponse .nack 0xFF) State.reset).map (·.ret) =
    some (.bytes [0x7B, 0xFF, 0x00, 0x81, 0x7D]) := by decide

theorem test_feTransmit : (after (.feTransmit [0x81]) State.reset).map (·.txlog) =
    some [true, false, false, false, false, false, false, true] := by decide

theorem test_fdTryExtract : (after (.fdTryExtract [0x7B, 0x00, 0x00, 0x5C, 0x7D, 0x42, 0x7D]) State.reset).map (·.ret) =
    some (.extract (.complete [0x00, 0x00, 0x7D, 0x42] none 7)) := by decide

theorem test_fdTryExtract_split : (after (.fdTryExtract [0x7B, 0x00, 0x00, 0x5C]) State.reset).map (·.ret) =
    some (.extract .incomplete) := by decide

theorem test_pcParity : (after (.pcParity [1, 2, 3, 4, 5, 6, 7, 8]) State.reset).map (·.ret) = some (.bit true) := by
  decide

theorem test_pcCheck : (after (.pcCheck 0x02 [0x01]) State.reset).map (·.ret) = some (.bool false) ∧
    (after (.pcCheck 0x01 [0x01]) State.reset).map (·.ret) = some (.bool true) := by decide

theorem test_arqOnSendRequested :
    (after (.arqOnSendRequested [0x41]) State.reset).map (fun t => (t.lastFrameSent, t.ackStatus, t.txlog)) =
      some (some frame41, .awaitingAck, frameBits frame41) := by decide

theorem test_arqRetryStep_retransmits : (after .arqRetryStep (attempting 9)).map (fun t => (t.seqr, t.txlog)) =
    some (.attempted 10, frameBits frame41) := by decide

theorem test_arqRetryStep_wraps :
    (after .arqRetryStep { attempting 10 with sendSeq := 0xFF }).map (fun t => (t.seqr, t.sendSeq)) =
      some (.chunk, 0x00) := by decide

theorem test_arqSendResponse :
    (after (.arqSendResponse .ack) { State.reset with recvSeq := 0x01 }).map (·.lastResponseFrame) =
      some (some [0x7B, 0x01, 0x00, 0x7E, 0x7D]) := by decide

/-- 95 V-L1-3: delivered and ACKed with the advanced SEQ. -/
theorem test_arqOnFrameReceived_delivers :
    (after (.arqOnFrameReceived [0x00, 0x00, 0x41] none) State.reset).map (fun t => (t.clientlog, t.recvSeq, t.txlog)) =
      some ([[0x41]], 0x01, frameBits [0x7B, 0x01, 0x00, 0x7E, 0x7D]) := by decide

/-- 95 V-L1-8: out of order, NACKed, not delivered. -/
theorem test_arqOnFrameReceived_nacks :
    (after (.arqOnFrameReceived [0x01, 0x00, 0x41] none) State.reset).map (fun t => (t.clientlog, t.recvSeq, t.txlog)) =
      some ([], 0x00, frameBits [0x7B, 0x00, 0x00, 0x81, 0x7D]) := by decide

/-- A state in the middle of a scan. -/
def scanning (st : ScanState) : State := { State.reset with scan := ⟨st, [0x00], none, 1⟩ }

theorem test_wireEscape : (after (.wireEscape (some 0x7D)) (scanning .inFrame)).map (·.scan) =
    some ⟨.inFrame, [0x00, 0x7D], none, 3⟩ := by decide

theorem test_wireSignalAck : (after .wireSignalAck (scanning .inFrame)).map (·.scan) =
      some ⟨.inFrame, [0x00], some .ack, 2⟩ ∧
    (after .wireSignalAck (scanning .seeking)).map (·.scan) = some ⟨.seeking, [0x00, 0x7E], none, 2⟩ := by decide

theorem test_wireSignalNack : (after .wireSignalNack (scanning .inFrame)).map (·.scan) =
      some ⟨.inFrame, [0x00], some .nack, 2⟩ ∧
    (after .wireSignalNack (scanning .seeking)).map (·.scan) = some ⟨.seeking, [0x00, 0x81], none, 2⟩ := by decide

theorem test_wireStop : (after .wireStop (scanning .seeking)).map (fun t => (t.ret, t.scan)) =
    some (.extract (.complete [0x00] none 2), Scan.begin) := by decide

theorem test_wireStart : (after .wireStart (scanning .seeking)).map (·.scan) = some ⟨.inFrame, [0x00], none, 2⟩ := by
  decide

theorem test_wireData : (after (.wireData 0x42) (scanning .inFrame)).map (·.scan) =
    some ⟨.inFrame, [0x00, 0x42], none, 2⟩ := by decide

/-- The table's words at the place the step takes its next word from. -/
theorem test_withFetchWord :
    (stateOf (step (State.reset.withFetchWord 8 0x03))).map (fun t => (t.bitq, t.stream)) = some ([true], []) ∧
    refusalOf (step (State.reset.withFetchWord 8 0x20)) = some .nothingToSend := by decide

/-! ## Witnesses: for every statement with hypotheses, values that meet them all -/

/-- The defaults with another receive depth and runt policy. -/
def cfgWith (depth : Option Nat) (policy : RuntPolicy) : Config :=
  { Config.default with rxBufDepth := depth, runtPolicy := policy }

theorem test_reset_inv : State.reset.Inv := by
  constructor <;> first | decide | (intro; simp [State.reset, State.powerOn, Config.default])

theorem test_chunked_inv : (chunked [0x41]).Inv := by
  constructor <;> first | decide | (intro; simp [chunked, State.reset, State.powerOn, Config.default])

theorem test_attempting_inv : (attempting 10).Inv := by
  constructor <;> first
    | decide
    | (intro f h; simp [attempting, State.reset, State.powerOn, Config.default] at h ⊢; subst h; decide)

/-! DecodeOfEncodeIsTheInstruction, EncodeOfDecodeIsTheWord -/

theorem test_witness_encode : Config.default.wf ∧
    (Instr.feEncode [1, 2, 3, 4, 5, 6, 7, 8] 0x7B).wf Config.default = true ∧
    Instr.feEncode [1, 2, 3, 4, 5, 6, 7, 8] 0x7B ≠ .wireEscape none ∧
    (Instr.wireEscape none).wf Config.default = true := by decide

theorem test_witness_decode :
    decode Config.default .function [0x48, 0x5C, 0x01] = .ok (.escIsReserved 0x5C, [0x01]) := by decide

/-! CommandPortAcceptsOnlyWholeEventWords, clause by clause -/

theorem test_witness_command_port :
    ((0x04 : Byte) ∉ [0x00, 0x02, 0x03, 0x10, 0x20] ∧ (0x01 : Byte) ∉ [0x00, 0x02, 0x03, 0x10, 0x20]) ∧
    ([] : List Byte).length = 256 * (0x00 : Byte).toNat + (0x00 : Byte).toNat ∧
    ([] : List Byte).length < 256 * (0x00 : Byte).toNat + (0x01 : Byte).toNat ∧
    ((offering .event [0x04]).stream ≠ [] ∧
      decode Config.default .event [0x04] = .error (.notAnEventCode 0x04)) := by decide

theorem test_witness_command_port_two_length_bytes :
    (List.replicate 257 (0x41 : Byte)).length = 256 * (0x01 : Byte).toNat + (0x01 : Byte).toNat := by
  rw [List.length_replicate]; decide

/-! WirePortRefusesNoByte, StepRunsTheWordOffered, StepWithNothingOffered, EventsAreEnabledAsTheTableSays -/

theorem test_witness_wire_port : (offering .wire [0x5C]).port = .wire ∧ (offering .wire [0x5C]).stream ≠ [] := by decide

theorem test_witness_step_runs : decode (offering .event [0x03, 0x20]).cfg (offering .event [0x03, 0x20]).port
    (offering .event [0x03, 0x20]).stream = .ok (.deliver true, [0x20]) := by decide

theorem test_witness_nothing_offered :
    ((chunked []).stream = [] ∧ (chunked []).fault = none ∧ (chunked []).seqr ≠ .idle) ∧
    (State.reset.stream = [] ∧ ¬(State.reset.fault = none ∧ State.reset.seqr ≠ .idle)) ∧
    (faulted.stream = [] ∧ ¬(faulted.fault = none ∧ faulted.seqr ≠ .idle)) := by decide

theorem test_witness_enabled : ∀ k, (attempting 1).seqr = .attempted k → (attempting 1).lastFrameSent ≠ none := by
  intro _ _; decide

/-! Receiving: PushedBitsMakeBytesMsbFirst to BitPhaseCountsDelivers -/

theorem test_witness_push : (List.replicate 6 true).length ≠ 7 ∧ ([] : List Bit).length ≠ 7 := by decide

theorem test_witness_fault_free : State.reset.fault = none := by decide

theorem test_witness_deliver :
    (State.reset.fault = none ∧ State.reset.bitq.length ≠ 7) ∧
    (let s := almost (cfgWith (some 1) .nack) [0x55]
     s.fault = none ∧ pushBit s.bitq false = ([], some 0x7C) ∧ s.cfg.rxBufDepth = some s.rxbuf.length) ∧
    (let s := almost (cfgWith (some 2) .nack) [0x55]
     s.fault = none ∧ pushBit s.bitq false = ([], some 0x7C) ∧ s.cfg.rxBufDepth ≠ some s.rxbuf.length ∧
     tryExtract s.cfg (s.rxbuf ++ [0x7C]) = .incomplete) ∧
    (let s := almost (cfgWith (some 2) .nack) [0x55]
     s.fault = none ∧ pushBit s.bitq true = ([], some 0x7D) ∧ s.cfg.rxBufDepth ≠ some s.rxbuf.length ∧
     tryExtract s.cfg (s.rxbuf ++ [0x7D]) = .complete [0x55] none 2) := by decide

theorem test_witness_deliver_next : exec (.deliver true) State.reset = .next { State.reset with bitq := [true] } := by rfl

theorem test_witness_delivered_byte : State.reset.fault = none ∧ State.reset.bitq = [] := by decide

theorem test_witness_bit_phase :
    runEvents (deliverEvents (true :: byteBits 0x80)) State.reset =
      .next { State.reset with bitq := [false], rxbuf := [0xC0] } := by rfl

/-- The premises on SEQ_WIDTH in the clauses about the counters: the default, and the narrowest legal width. -/
theorem test_witness_seq_width : State.reset.cfg.seqWidth = 8 ∧ State.reset.cfg.wf := by decide

theorem test_witness_seq_width_narrowest : ({ Config.default with seqWidth := 1 } : Config).wf := by decide

/-! Sending: SendQueuesThePayload to EveryStepNearsCompletion -/

theorem test_witness_send :
    let s := State.powerOn { Config.default with sendLenMax := 2 }
    s.fault = none ∧ s.seqr = .idle ∧ ([0x48, 0x69] : List Byte).length ≤ s.cfg.sendLenMax := by decide

theorem test_witness_chunk :
    ((chunked []).fault = none ∧ (chunked []).seqr = .chunk ∧ (chunked []).sendbuf = []) ∧
    ((chunked [0x41]).fault = none ∧ (chunked [0x41]).seqr = .chunk ∧ (chunked [0x41]).sendbuf ≠ []) := by decide

theorem test_witness_on_send : State.reset.fault = none ∧
    ([1, 2, 3, 4, 5, 6, 7, 8] : List Byte).length ≤ State.reset.cfg.maxFrameSize := by decide

theorem test_witness_retry :
    ((attempting 9).fault = none ∧ (attempting 9).seqr = .attempted 9 ∧ 9 < (attempting 9).cfg.maxAttempts ∧
      (attempting 9).ackStatus ≠ .acked ∧ (attempting 9).lastFrameSent = some frame41) ∧
    ((attempting 10).seqr = .attempted 10 ∧ (attempting 10).cfg.maxAttempts ≤ 10) ∧
    (let s := { attempting 1 with ackStatus := .acked }
     s.fault = none ∧ s.seqr = .attempted 1 ∧ s.ackStatus = .acked) := by decide

theorem test_witness_retry_stops :
    (State.reset.fault = none ∧ State.reset.seqr = .idle) ∧ (chunked []).seqr = .chunk ∧
    (let s := { attempting 9 with lastFrameSent := none }
     s.fault = none ∧ s.seqr = .attempted 9 ∧ 9 < s.cfg.maxAttempts ∧ s.ackStatus ≠ .acked ∧
     s.lastFrameSent = none) := by decide

theorem test_witness_send_side : exec .step (chunked []) = .next State.reset ∧
    exec .arqRetryStep (attempting 10) = .next { attempting 10 with sendSeq := 0x01, seqr := .chunk } ∧
    ∃ t, exec (.arqOnSendRequested [0x41]) State.reset = .next t := ⟨rfl, rfl, _, rfl⟩

theorem test_witness_cost : State.reset.Inv ∧ State.reset.fault = none ∧ State.reset.seqr = .idle ∧
    ([1, 2, 3, 4, 5, 6, 7, 8, 9] : List Byte).length ≤ State.reset.cfg.sendLenMax :=
  ⟨test_reset_inv, by decide⟩

theorem test_witness_nears : (attempting 10).Inv ∧
    exec .step (attempting 10) = .next { attempting 10 with sendSeq := 0x01, seqr := .chunk } ∧
    exec (.deliver true) (attempting 10) = .next { attempting 10 with bitq := [true] } :=
  ⟨test_attempting_inv, rfl, rfl⟩

/-! Received frames: RuntIsHandledAsThePolicySays to AtMostOneResponsePerFrame -/

theorem test_witness_runt :
    State.reset.fault = none ∧ ([] : List Byte).length < 2 ∧ ([0x41] : List Byte).length < 2 ∧
    State.reset.cfg.runtPolicy = .nack ∧ (State.powerOn (cfgWith none .drop)).fault = none ∧
    (State.powerOn (cfgWith none .fault)).fault = none := by decide

theorem test_witness_parity_fails : State.reset.fault = none ∧ (0x01 : Byte) ≠ zext8 (parity [0x41]) ∧
    (0x02 : Byte) ≠ zext8 (parity [0x01]) := by decide

theorem test_witness_out_of_sequence : State.reset.fault = none ∧ (0x01 : Byte) ≠ State.reset.recvSeq ∧
    (0xFF : Byte) ≠ State.reset.recvSeq := by decide

theorem test_witness_one_response :
    (∃ t, exec (.arqOnFrameReceived [0x00, 0x00] none) State.reset = .next t) ∧
    ∃ t, exec (.deliver true) (almost Config.default []) = .next t := ⟨⟨_, rfl⟩, ⟨_, rfl⟩⟩

/-! Rows: PureFunctionsReturnTheirValue to WireBytesRunTryExtract -/

theorem test_witness_frame_size : ([1, 2, 3, 4, 5, 6, 7, 8] : List Byte).length ≤ State.reset.cfg.maxFrameSize ∧
    State.reset.cfg.maxFrameSize < ([1, 2, 3, 4, 5, 6, 7, 8, 9] : List Byte).length := by decide

theorem test_witness_transmit : ([0x7B, 0x81] : List Byte)[1]? = some 0x81 ∧ 7 < 8 := by decide

theorem test_witness_scan_states : (scanning .inFrame).scan.st = .inFrame ∧ (scanning .seeking).scan.st = .seeking := by
  decide

theorem test_witness_wire_run :
    let s := offering .wire [0x7B, 0x01, 0x00, 0x7E, 0x7D, 0x7B]
    s.cfg.wf ∧ s.port = .wire ∧ s.scan = Scan.begin ∧
    tryExtract s.cfg s.stream = .complete [0x01, 0x00] (some .ack) 5 := by decide

/-! Codecs: StuffedPayloadScansToItself to ParityDetectsOddFlips -/

theorem test_witness_seq : Config.default.wf ∧ (0x7F : Byte) ∉ Config.default.tags ∧
    (0x00 : Byte) ∉ Config.default.tags := by decide

theorem test_witness_completed : tryExtract Config.default [0x7B, 0x00, 0x00] = .incomplete ∧
    tryExtract Config.default ([0x7B, 0x00, 0x00] ++ [0x7D]) = .complete [0x00, 0x00] none 4 := by decide

theorem test_witness_junk : ∀ b ∈ ([0x7E, 0x81, 0x00] : List Byte),
    b ≠ Config.default.escape ∧ b ≠ Config.default.stop ∧ b ≠ Config.default.start := by decide

theorem test_witness_perm : ([0x01, 0x7B] : List Byte).Perm [0x7B, 0x01] := by decide

theorem test_witness_flips : ([0x01] : List Byte).length = ([0x41] : List Byte).length ∧
    parityOk 0x00 [0x41] = true ∧ (0x01 : Byte) ≠ 0x00 := by decide

/-! Faults: FaultedBlockTakesOnlyReset to DefaultsNeverFault -/

theorem test_witness_faulted : faulted.fault = some .rxbufOverflow ∧
    ({ faulted with fault := some .runtFrame } : State).fault = some .runtFrame := by decide

theorem test_witness_frozen : faulted.fault ≠ none ∧ Instr.escIsReserved 0x5C ≠ .reset ∧
    ∃ t, exec (.escIsReserved 0x5C) faulted = .next t := ⟨by decide, by decide, _, rfl⟩

theorem test_witness_faults :
    (let s := almost (cfgWith (some 1) .nack) [0x55]
     s.fault = none ∧ exec (.deliver false) s = .next { s with bitq := [], fault := some .rxbufOverflow }) ∧
    (let s := almost (cfgWith none .fault) [0x55]
     s.fault = none ∧ exec (.deliver true) s = .next { s with bitq := [], rxbuf := [], fault := some .runtFrame }) ∧
    (let s := State.powerOn (cfgWith none .fault)
     s.fault = none ∧ exec (.arqOnFrameReceived [0x41] none) s = .next { s with fault := some .runtFrame }) :=
  ⟨⟨rfl, rfl⟩, ⟨rfl, rfl⟩, ⟨rfl, rfl⟩⟩

theorem test_witness_defaults : faultFree State.reset.cfg ∧ State.reset.fault = none ∧
    exec (.deliver true) State.reset = .next { State.reset with bitq := [true] } :=
  ⟨⟨by decide, by decide⟩, by decide, rfl⟩

/-! Whole-machine rules: OutputRecordsOnlyGrow to NoStepFaultsFromTheInvariant -/

theorem test_witness_rows_and_steps : (∃ t, exec (.feTransmit [0x81]) State.reset = .next t) ∧
    ∃ t, step (chunked [0x41]) = .next t := ⟨⟨_, rfl⟩, ⟨_, rfl⟩⟩

theorem test_witness_send_seq : Instr.step ≠ .reset ∧
    exec .step (attempting 10) = .next { attempting 10 with sendSeq := 0x01, seqr := .chunk } := ⟨by decide, rfl⟩

theorem test_witness_recv_seq : Instr.arqOnFrameReceived [0x00, 0x00, 0x41] none ≠ .reset ∧
    ∃ t, exec (.arqOnFrameReceived [0x00, 0x00, 0x41] none) State.reset = .next t := ⟨by decide, _, rfl⟩

theorem test_witness_counts : State.reset.cfg.wf ∧ State.reset.recvSeq.toNat < 2 ^ State.reset.cfg.seqWidth ∧
    State.reset.cfg.seqWidth = 8 ∧ Instr.reset ∉ [Instr.arqOnFrameReceived [0x00, 0x00, 0x41] none] ∧
    ∃ t, runEvents [.arqOnFrameReceived [0x00, 0x00, 0x41] none] State.reset = .next t :=
  ⟨by decide, by decide, by decide, by decide, _, rfl⟩

theorem test_witness_step_inv : (chunked [0x41]).Inv ∧ ∃ t, step (chunked [0x41]) = .next t :=
  ⟨test_chunked_inv, _, rfl⟩

/-! Two instances: PeerReceivesWhatWasSent to LinkEndsShareOnlyBits -/

theorem test_witness_peer :
    let s := State.powerOn (cfgWith (some 7) .nack)
    s.cfg.wf ∧ s.fault = none ∧ s.bitq = [] ∧ s.rxbuf = [] ∧ s.pendingSig = none ∧ s.recvSeq ∉ s.cfg.tags ∧
    ∀ d, s.cfg.rxBufDepth = some d → (dataFrame s.cfg [0x41, 0x7B] s.recvSeq).length ≤ d := by
  refine ⟨by decide, by decide, by decide, by decide, by decide, by decide, ?_⟩
  intro d h; cases h; decide

theorem test_witness_ack :
    let s := { State.powerOn (cfgWith (some 5) .nack) with
      seqr := .attempted 1, lastFrameSent := some frame41, ackStatus := .awaitingAck }
    s.cfg.wf ∧ parity [s.cfg.response] = false ∧ s.fault = none ∧ s.bitq = [] ∧ s.rxbuf = [] ∧ s.pendingSig = none ∧
    (0x01 : Byte) ∉ s.cfg.tags ∧ (∀ d, s.cfg.rxBufDepth = some d → 5 ≤ d) ∧ s.seqr = .attempted 1 := by
  refine ⟨by decide, by decide, by decide, by decide, by decide, by decide, by decide, ?_, by decide⟩
  intro d h; cases h; decide

theorem test_witness_link :
    let l : Link := ⟨{ State.reset with txlog := [true] }, State.reset, 0, 0⟩
    l.act (.carry .a .pass) = some ⟨l.a, { State.reset with bitq := [true] }, 1, 0⟩ ∧
    l.takenA ≤ l.a.txlog.length ∧ l.takenB ≤ l.b.txlog.length := by decide

/-- The other actions of LinkEndsShareOnlyBits, at the first bit sent. -/
theorem test_witness_link_actions :
    let l : Link := ⟨{ State.reset with txlog := [true] }, State.reset, 0, 0⟩
    l.act (.here .b .reset) = some l ∧
    l.act (.carry .a .corrupt) = some ⟨l.a, { State.reset with bitq := [false] }, 1, 0⟩ ∧
    l.act (.carry .a .lose) = some ⟨l.a, l.b, 1, 0⟩ ∧
    l.act (.carry .b (.insert true)) = some ⟨{ l.a with bitq := [true] }, l.b, 0, 0⟩ := by decide

/-- 60 R114: the codes of the fault causes. -/
theorem test_fault_codes : faultCode none = 0 ∧ faultCode (some .rxbufOverflow) = 1 ∧ faultCode (some .runtFrame) = 2 := by
  decide

/-- 20 R46: the first bit one end sends, bit 7 of the byte, arrives at the other. -/
theorem test_link_carries_a_bit :
    (Link.reset.acts [.here .a (.feTransmit [0x81]), .carry .a .pass]).map (fun l => (l.b.bitq, l.takenA)) =
      some ([true], 1) := by decide

/-- 30 R60 and 46 R112: RUN of an empty SEND ends at a quiescent point. -/
theorem test_run_of_an_empty_send :
    (stateOf (runProgram [.event (.send []), .run] State.reset)).map (fun t => (t.quiescent, t.txlog)) =
      some (true, []) := by decide

end Sys2Proof.Tests
end

/-! Proofs of the statements of 00_scope.md: a step runs the word offered (O6), and no row and no step writes the
elaboration parameters (O51). -/

namespace Sys2Proof.Machine

/-! ## The word offered -/

/-- No port reads a word from no bytes. -/
theorem decode_nil (cfg : Config) (port : Port) : decode cfg port [] = .error .noWord := by
  cases port <;> rfl

/-- Bytes that decode are there, and are the word that is next to run. -/
theorem nextOffer_of_decode {s : State} {i : Instr} {rest : List Byte}
    (h : decode s.cfg s.port s.stream = .ok (i, rest)) : nextOffer s = .word i rest := by
  cases hs : s.stream with
  | nil => rw [hs, decode_nil] at h; cases h
  | cons b bs => rw [hs] at h; simp only [nextOffer, hs, h]

/-- Settles O6: the bytes that decode are the next offer, and a step runs the word it is offered. -/
theorem stepRunsTheWordOffered : Obligations.StepRunsTheWordOffered := by
  intro s i rest h
  simp only [step, nextOffer_of_decode h]

/-! ## The elaboration parameters -/

@[simp] theorem onFrameReceived_cfg (x : List Byte) (sig : Option Signal) (s : State) :
    (onFrameReceived x sig s).cfg = s.cfg := by
  obtain ⟨_, _, _, _, hcfg, _⟩ := onFrameReceived_frame x sig s
  exact hcfg

@[simp] theorem chunkStep_cfg (s : State) : (chunkStep s).cfg = s.cfg := by
  obtain ⟨_, _, _, _, _, _, _, hcfg, _⟩ := chunkStep_frame s
  exact hcfg

theorem retryStep_cfg {k : Nat} {s t : State} (h : retryStep k s = .next t) : t.cfg = s.cfg := by
  obtain ⟨_, _, _, _, _, _, _, hcfg, _⟩ := retryStep_frame h
  exact hcfg

/-- 46 R103: taking a bit, overflowing, keeping a byte and processing a frame all leave the parameters. -/
@[simp] theorem deliverBit_cfg (c : Bit) (s : State) : (deliverBit c s).cfg = s.cfg := by
  rcases deliverBit_cases c s with ⟨_, h⟩ | ⟨_, v, _, ⟨_, h⟩ | ⟨_, _, h⟩ | ⟨x, sig, n, _, _, h⟩⟩ <;> simp [h]

/-- 00 R5, 10 R25: RESET keeps the parameters, they are part of the block, and each row that writes the block leaves
them by the law of its own operation. -/
theorem exec_cfg {i : Instr} {s t : State} (h : exec i s = .next t) : t.cfg = s.cfg := by
  rcases exec_effect h with ⟨_, rfl⟩ | hblock | ⟨_, hrow⟩
  · exact resetState_cfg s
  · exact (block_fields hblock).1
  · rcases hrow with ⟨c, _, rfl⟩ | ⟨p, _, _, _, rfl⟩ | ⟨_, _, rfl⟩ | ⟨_, k, _, hretry⟩ | ⟨c, _, rfl⟩ | ⟨f, _, rfl⟩ |
      ⟨c, _, _, rfl⟩ | ⟨sig, _, rfl⟩ | ⟨x, sig, _, rfl⟩
    · exact deliverBit_cfg c s
    · rfl
    · exact chunkStep_cfg s
    · exact retryStep_cfg hretry
    · exact returning_cfg _ _
    · exact transmit_cfg f s
    · exact onSendRequested_cfg c s
    · exact sendResponse_cfg sig s
    · exact onFrameReceived_cfg x sig s

/-- A step does nothing or is a row, so it leaves the parameters too. -/
theorem step_cfg {s t : State} (h : step s = .next t) : t.cfg = s.cfg := by
  rcases step_cases h with rfl | hstep | ⟨i, rest, hword⟩
  · rfl
  · exact exec_cfg hstep
  · exact exec_cfg (s := { s with stream := rest }) hword

/-- Settles O51, row by row (`exec_cfg`), and for a step by the row it runs. -/
theorem parametersAreFixed : Obligations.ParametersAreFixed :=
  ⟨fun _ _ _ => exec_cfg, fun _ _ => step_cfg⟩

end Sys2Proof.Machine

/-! Proofs of the statements of 10_state.md: every step keeps the invariant (O56), the output records only grow (O50),
and how the two sequence counters move (O52, O53). -/

namespace Sys2Proof.Machine

/-! ## A scan that one more byte completes -/

theorem eq_stop_of_classify {cfg : Config} {b : Byte} {st : ScanState} (h : classify cfg b st = .stopC) :
    b = cfg.stop := by
  unfold classify at h
  split_ifs at h with _ _ _ hstop
  exact hstop

/-- A single byte completes a scan only if it is STOP: every other class leaves the loop at the end of the buffer. -/
theorem scanFrom_single {cfg : Config} {sc : Scan} {b : Byte} {x : List Byte} {sig : Option Signal} {n : Nat}
    (h : scanFrom cfg sc [b] = .complete x sig n) : b = cfg.stop ∧ n = sc.i + 1 := by
  cases hc : classify cfg b sc.st with
  | stopC =>
    simp only [scanFrom_cons, hc, Scan.finish, Extract.complete.injEq] at h
    exact ⟨eq_stop_of_classify hc, h.2.2.symm⟩
  | _ => simp [scanFrom_cons, scanFrom_nil, hc] at h

/-- 43 R83, for a scan from any locals: the completing byte is a STOP, and the scan consumes the buffer to its end. -/
theorem scanFrom_completed_by {cfg : Config} {buf : List Byte} {sc : Scan} {b : Byte} {x : List Byte}
    {sig : Option Signal} {n : Nat} (hinc : scanFrom cfg sc buf = .incomplete)
    (h : scanFrom cfg sc (buf ++ [b]) = .complete x sig n) : b = cfg.stop ∧ n = sc.i + buf.length + 1 := by
  fun_induction scanFrom cfg sc buf with
  | case1 => exact scanFrom_single h
  | case2 sc v hc => simp [scanFrom_cons, scanFrom_nil, hc] at h
  | case3 sc v hc w rest ih =>
    simp only [List.cons_append, scanFrom_cons, hc] at h
    exact (ih hinc h).imp_right fun hn => by simp [Scan.takeLiteral] at hn ⊢; omega
  | case6 sc v rest hc => cases hinc
  | case4 sc v rest hc ih | case5 sc v rest hc ih | case7 sc v rest hc ih | case8 sc v rest hc ih =>
    simp only [List.cons_append, scanFrom_cons, hc] at h
    exact (ih hinc h).imp_right fun hn => by
      simp [Scan.recordSignal, Scan.enterFrame, Scan.takeData] at hn ⊢; omega

/-- 46 R103: what a completed frame leaves in a buffer that was INCOMPLETE before its last byte is nothing. -/
theorem drop_completed_eq_nil {cfg : Config} {buf : List Byte} {b : Byte} {x : List Byte} {sig : Option Signal}
    {n : Nat} (hinc : tryExtract cfg buf = .incomplete) (h : tryExtract cfg (buf ++ [b]) = .complete x sig n) :
    (buf ++ [b]).drop n = [] := by
  have hn : n = Scan.begin.i + buf.length + 1 := (scanFrom_completed_by hinc h).2
  exact List.drop_eq_nil_of_le (by simp [hn, Scan.begin])

/-! ## Sizes of frames (30 R50) -/

theorem stuff_length_le (cfg : Config) (p : List Byte) : (stuff cfg p).length ≤ 2 * p.length := by
  induction p with
  | nil => simp [stuff]
  | cons b p ih => unfold stuff; split <;> simp <;> omega

theorem dataFrame_length (cfg : Config) (p : List Byte) (q : Byte) :
    (dataFrame cfg p q).length = 4 + (stuff cfg p).length := by
  simp [dataFrame]; omega

theorem response_length (s : State) (sig : Signal) : (s.response sig).length = 5 := rfl

/-! ## The invariant, operation by operation -/

theorem wf_maxAttempts {cfg : Config} (h : cfg.wf) : 1 ≤ cfg.maxAttempts := by
  obtain ⟨-, -, -, -, -, -, hmax, -⟩ := h
  exact hmax

theorem powerOn_inv {cfg : Config} (h : cfg.wf) : (State.powerOn cfg).Inv := by
  obtain ⟨-, -, -, -, -, -, -, -, -, -, hsend, hrecv⟩ := id h
  exact {
    cfg_wf := h
    bitq_short := Nat.zero_le _
    rxbuf_incomplete := rfl
    rxbuf_fits := fun _ _ => Nat.zero_le _
    idle_empty := fun _ => rfl
    send_seq_width := hsend
    recv_seq_width := hrecv
    sendbuf_fits := Nat.zero_le _
    attempt_legal := nofun
    outstanding := nofun
    signal_consumed := rfl
    frame_size := nofun
    response_size := nofun
    overflow_full := nofun
    runt_policy := nofun }

section
variable {s t : State}

theorem resetState_inv (hs : s.Inv) : (resetState s).Inv :=
  { powerOn_inv hs.cfg_wf with }

/-- The invariant is about the block: the words offered and the model's own results are free. -/
theorem block_inv : s.block.Inv ↔ s.Inv :=
  ⟨fun h => { h with }, fun h => { h with }⟩

theorem inv_of_block_eq (hs : s.Inv) (h : t.block = s.block) : t.Inv := by
  rw [← block_inv, h, block_inv]
  exact hs

theorem transmit_inv (hs : s.Inv) (f : List Byte) : (transmit f s).Inv :=
  { hs with }

theorem clearSignal_inv (hs : s.Inv) : ({ s with pendingSig := none } : State).Inv :=
  { hs with signal_consumed := rfl }

theorem sendResponse_inv (hs : s.Inv) (sig : Signal) : (sendResponse sig s).Inv :=
  { hs with
    response_size := by
      rintro f ⟨⟩
      exact response_length s sig }

/-- 45 R88: the stored frame holds a chunk of legal size, and is now awaiting its ACK. -/
theorem onSendRequested_inv (hs : s.Inv) {c : List Byte} (hc : c.length ≤ s.cfg.maxFrameSize) :
    (onSendRequested c s).Inv :=
  { hs with
    attempt_legal := fun k hk => ⟨(hs.attempt_legal k hk).1, (hs.attempt_legal k hk).2.1, rfl⟩
    outstanding := by simp
    frame_size := by
      rintro f ⟨⟩
      have := stuff_length_le s.cfg c
      simp only [dataFrame_length, onSendRequested_cfg]
      omega }

/-- 45 R96: a payload delivered, and the counter moved on within its width. -/
theorem deliverPayload_inv (hs : s.Inv) (data : List Byte) :
    ({ clientReceive data s with recvSeq := nextSeq s.cfg s.recvSeq } : State).Inv :=
  { hs with recv_seq_width := nextSeq_lt hs.cfg_wf _ }

/-- 45 R91 to R97; the one fault raised is RUNT_FRAME under its policy. -/
theorem onFrameReceived_inv (hs : s.Inv) (x : List Byte) (sig : Option Signal) : (onFrameReceived x sig s).Inv := by
  rcases onFrameReceived_cases x sig s with
    ⟨_, ⟨_, h⟩ | ⟨_, h⟩ | ⟨hpolicy, h⟩⟩ | ⟨_, h | h | h | ⟨f, _, _, h⟩ | ⟨data, h⟩⟩ <;> rw [h]
  · exact sendResponse_inv hs .nack
  · exact hs
  · exact { hs with overflow_full := nofun, runt_policy := fun _ => hpolicy }
  · exact clearSignal_inv (sendResponse_inv hs .nack)
  · exact { hs with outstanding := by simp, signal_consumed := rfl }
  · exact clearSignal_inv hs
  · exact clearSignal_inv (transmit_inv hs f)
  · exact clearSignal_inv (sendResponse_inv (deliverPayload_inv hs data) .ack)

/-- A byte boundary without a fault: any receive buffer that scans INCOMPLETE and fits keeps the invariant. -/
theorem receivedBytes_inv (hs : s.Inv) (hf : s.fault = none) {buf : List Byte}
    (hinc : tryExtract s.cfg buf = .incomplete) (hfits : ∀ d, s.cfg.rxBufDepth = some d → buf.length ≤ d) :
    ({ s with bitq := [], rxbuf := buf } : State).Inv :=
  { hs with
    bitq_short := by simp
    rxbuf_incomplete := hinc
    rxbuf_fits := hfits
    overflow_full := by simp [hf] }

/-- 46 R103: a frame that completes leaves the empty buffer, so the buffer scans INCOMPLETE again (43 R83). -/
theorem deliverBit_inv (hs : s.Inv) (hf : s.fault = none) (c : Bit) : (deliverBit c s).Inv := by
  rcases deliverBit_cases c s with
    ⟨hshort, h⟩ | ⟨_, v, _, ⟨hfull, h⟩ | ⟨hroom, hinc, h⟩ | ⟨x, sig, n, _, hcomp, h⟩⟩ <;> rw [h]
  · have := hs.bitq_short
    exact { hs with bitq_short := by simp; omega }
  · exact { hs with bitq_short := by simp, overflow_full := fun _ => hfull, runt_policy := nofun }
  · refine receivedBytes_inv hs hf hinc fun d hd => ?_
    have hle := hs.rxbuf_fits d hd
    have hne : d ≠ s.rxbuf.length := fun e => hroom (e ▸ hd)
    simp; omega
  · rw [drop_completed_eq_nil hs.rxbuf_incomplete hcomp]
    exact onFrameReceived_inv (receivedBytes_inv hs hf rfl (by simp)) x sig

theorem pushedBit_inv (hs : s.Inv) (c : Bit) : ({ s with bitq := (pushBit s.bitq c).1 } : State).Inv :=
  { hs with
    bitq_short := by
      have := pushBit_queue_length c hs.bitq_short
      simp only
      omega }

theorem returning_inv (hs : s.Inv) (r : Ret) : (returning r s).Inv :=
  { hs with }

/-- 46 R104: SEND is taken in IDLE only, where the send buffer was empty. -/
theorem queuedPayload_inv (hs : s.Inv) (hidle : s.seqr = .idle) {p : List Byte} (hp : p.length ≤ s.cfg.sendLenMax) :
    ({ s with sendbuf := s.sendbuf ++ p, seqr := .chunk } : State).Inv :=
  { hs with
    idle_empty := nofun
    sendbuf_fits := by simpa [hs.idle_empty hidle] using hp
    attempt_legal := nofun }

/-- 46 R105: IDLE is entered on an empty send buffer, and attempt 1 with the chunk's frame stored. -/
theorem chunkStep_inv (hs : s.Inv) : (chunkStep s).Inv := by
  rcases chunkStep_cases s with ⟨hempty, h⟩ | ⟨_, h⟩ <;> rw [h]
  · exact { hs with idle_empty := fun _ => hempty, attempt_legal := nofun }
  · have hsent : (onSendRequested (nextChunk s.cfg s.sendbuf) s).Inv :=
      onSendRequested_inv hs (List.length_take_le ..)
    have hfits := hs.sendbuf_fits
    exact { hsent with
      idle_empty := nofun
      sendbuf_fits := by simp [afterChunk]; omega
      attempt_legal := by
        rintro k ⟨⟩
        exact ⟨le_rfl, wf_maxAttempts hs.cfg_wf, rfl⟩ }

/-- 45 R89: a retransmission stays within MAX_ATTEMPTS with its frame stored; the advance stays within SEQ_WIDTH. -/
theorem retryStep_inv (hs : s.Inv) {k : Nat} (h : retryStep k s = .next t) : t.Inv := by
  rcases retryStep_cases h with ⟨f, hk, _, hsome, rfl⟩ | ⟨_, rfl⟩
  · exact { hs with
      idle_empty := nofun
      attempt_legal := by
        rintro k' ⟨⟩
        exact ⟨by omega, hk, by simp [hsome]⟩ }
  · exact { hs with
      idle_empty := nofun
      send_seq_width := nextSeq_lt hs.cfg_wf _
      attempt_legal := nofun }

/-- Every row keeps the invariant: RESET makes it hold, and each row that writes the block keeps it by the law of its
own operation. -/
theorem exec_inv (hs : s.Inv) {i : Instr} (h : exec i s = .next t) : t.Inv := by
  rcases exec_effect h with ⟨_, rfl⟩ | hblock | ⟨hf, hrow⟩
  · exact resetState_inv hs
  · exact inv_of_block_eq hs hblock
  · rcases hrow with ⟨c, _, rfl⟩ | ⟨p, _, hidle, hp, rfl⟩ | ⟨_, _, rfl⟩ | ⟨_, k, _, hretry⟩ | ⟨c, _, rfl⟩ |
      ⟨f, _, rfl⟩ | ⟨c, _, hc, rfl⟩ | ⟨sig, _, rfl⟩ | ⟨x, sig, _, rfl⟩
    · exact deliverBit_inv hs hf c
    · exact queuedPayload_inv hs hidle hp
    · exact chunkStep_inv hs
    · exact retryStep_inv hs hretry
    · exact returning_inv (pushedBit_inv hs c) _
    · exact transmit_inv hs f
    · exact onSendRequested_inv hs hc
    · exact sendResponse_inv hs sig
    · exact onFrameReceived_inv hs x sig

/-- A step does nothing or is a row; taking the row's word off the stream is no change of the block. -/
theorem step_inv (hs : s.Inv) (h : step s = .next t) : t.Inv := by
  rcases step_cases h with rfl | hstep | ⟨i, rest, hword⟩
  · exact hs
  · exact exec_inv hs hstep
  · have htaken : ({ s with stream := rest } : State).Inv := inv_of_block_eq hs rfl
    exact exec_inv htaken hword

end

/-- Settles O56, row by row (`exec_inv`), and for a step by the row it runs. -/
theorem everyStepKeepsTheInvariant : Obligations.EveryStepKeepsTheInvariant :=
  fun _ _ => step_inv

/-! ## The output records -/

/-- From `s` to `t` nothing is removed from either output record (10 R23). -/
def recordsGrow (s t : State) : Prop := s.txlog <+: t.txlog ∧ s.clientlog <+: t.clientlog

theorem recordsGrow_of_eq {s t : State} (htx : t.txlog = s.txlog) (hclient : t.clientlog = s.clientlog) :
    recordsGrow s t := by
  rw [recordsGrow, htx, hclient]
  exact ⟨List.prefix_rfl, List.prefix_rfl⟩

/-- Records that only gain bits at the end of `txlog` grow. -/
theorem recordsGrow_of_append {s t : State} {bits : List Bit} (htx : t.txlog = s.txlog ++ bits)
    (hclient : t.clientlog = s.clientlog) : recordsGrow s t := by
  rw [recordsGrow, htx, hclient]
  exact ⟨List.prefix_append _ _, List.prefix_rfl⟩

/-- 45 R91 to R97: a frame draws a response, a retransmission or nothing, and may deliver its payload. -/
theorem onFrameReceived_recordsGrow (x : List Byte) (sig : Option Signal) (s : State) :
    recordsGrow s (onFrameReceived x sig s) := by
  rcases onFrameReceived_cases x sig s with
    ⟨_, ⟨_, h⟩ | ⟨_, h⟩ | ⟨_, h⟩⟩ | ⟨_, h | h | h | ⟨f, _, _, h⟩ | ⟨data, h⟩⟩ <;> simp [h, recordsGrow]

theorem deliverBit_recordsGrow (c : Bit) (s : State) : recordsGrow s (deliverBit c s) := by
  rcases deliverBit_cases c s with ⟨_, h⟩ | ⟨_, v, _, ⟨_, h⟩ | ⟨_, _, h⟩ | ⟨x, sig, n, _, _, h⟩⟩ <;> rw [h]
  · exact recordsGrow_of_eq rfl rfl
  · exact recordsGrow_of_eq rfl rfl
  · exact recordsGrow_of_eq rfl rfl
  · exact onFrameReceived_recordsGrow x sig { s with bitq := [], rxbuf := (s.rxbuf ++ [v]).drop n }

theorem chunkStep_recordsGrow (s : State) : recordsGrow s (chunkStep s) := by
  rcases chunkStep_cases s with ⟨_, h⟩ | ⟨_, h⟩ <;> rw [h]
  · exact recordsGrow_of_eq rfl rfl
  · exact recordsGrow_of_append rfl rfl

theorem retryStep_recordsGrow {k : Nat} {s t : State} (h : retryStep k s = .next t) : recordsGrow s t := by
  rcases retryStep_cases h with ⟨f, _, _, _, rfl⟩ | ⟨_, rfl⟩
  · exact recordsGrow_of_append rfl rfl
  · exact recordsGrow_of_eq rfl rfl

/-- 10 R23: RESET keeps the records, they are part of the block, and each row that writes the block appends to them or
leaves them. -/
theorem exec_recordsGrow {i : Instr} {s t : State} (h : exec i s = .next t) : recordsGrow s t := by
  rcases exec_effect h with ⟨_, rfl⟩ | hblock | ⟨_, hrow⟩
  · exact recordsGrow_of_eq rfl rfl
  · obtain ⟨_, _, _, _, _, _, _, _, _, _, _, _, htx, hclient⟩ := block_fields hblock
    exact recordsGrow_of_eq htx hclient
  · rcases hrow with ⟨c, _, rfl⟩ | ⟨p, _, _, _, rfl⟩ | ⟨_, _, rfl⟩ | ⟨_, k, _, hretry⟩ | ⟨c, _, rfl⟩ | ⟨f, _, rfl⟩ |
      ⟨c, _, _, rfl⟩ | ⟨sig, _, rfl⟩ | ⟨x, sig, _, rfl⟩
    · exact deliverBit_recordsGrow c s
    · exact recordsGrow_of_eq rfl rfl
    · exact chunkStep_recordsGrow s
    · exact retryStep_recordsGrow hretry
    · exact recordsGrow_of_eq rfl rfl
    · exact recordsGrow_of_append (transmit_txlog f s) rfl
    · exact recordsGrow_of_append (onSendRequested_txlog c s) rfl
    · exact recordsGrow_of_append (sendResponse_txlog sig s) rfl
    · exact onFrameReceived_recordsGrow x sig s

theorem step_recordsGrow {s t : State} (h : step s = .next t) : recordsGrow s t := by
  rcases step_cases h with rfl | hstep | ⟨i, rest, hword⟩
  · exact recordsGrow_of_eq rfl rfl
  · exact exec_recordsGrow hstep
  · exact exec_recordsGrow (s := { s with stream := rest }) hword

/-- Settles O50, row by row (`exec_recordsGrow`), and for a step by the row it runs. -/
theorem outputRecordsOnlyGrow : Obligations.OutputRecordsOnlyGrow :=
  ⟨fun _ _ _ => exec_recordsGrow, fun _ _ => step_recordsGrow⟩

/-! ## The send sequence counter -/

theorem onFrameReceived_sendSeq (x : List Byte) (sig : Option Signal) (s : State) :
    (onFrameReceived x sig s).sendSeq = s.sendSeq := by
  obtain ⟨_, hseq, _⟩ := onFrameReceived_frame x sig s
  exact hseq

theorem deliverBit_sendSeq (c : Bit) (s : State) : (deliverBit c s).sendSeq = s.sendSeq := by
  rcases deliverBit_cases c s with ⟨_, h⟩ | ⟨_, v, _, ⟨_, h⟩ | ⟨_, _, h⟩ | ⟨x, sig, n, _, _, h⟩⟩ <;> rw [h]
  exact onFrameReceived_sendSeq x sig _

theorem chunkStep_sendSeq (s : State) : (chunkStep s).sendSeq = s.sendSeq := by
  rcases chunkStep_cases s with ⟨_, h⟩ | ⟨_, h⟩ <;> rw [h]
  rfl

/-- 45 R89: a retransmission keeps the counter, the end of the loop advances it and goes on to CHUNK. -/
theorem retryStep_sendSeq {k : Nat} {s t : State} (h : retryStep k s = .next t) :
    t.sendSeq = s.sendSeq ∨ (t.sendSeq = nextSeq s.cfg s.sendSeq ∧ t.seqr = .chunk) := by
  rcases retryStep_cases h with ⟨f, _, _, _, rfl⟩ | ⟨_, rfl⟩
  · exact .inl rfl
  · exact .inr ⟨rfl, rfl⟩

/-- Settles O52: of the rows that write the block only a retry iteration touches the counter (`retryStep_sendSeq`). -/
theorem sendSeqAdvancesOnlyAtTheEndOfARetryLoop : Obligations.SendSeqAdvancesOnlyAtTheEndOfARetryLoop := by
  intro s t i h hreset
  rcases exec_effect h with ⟨hi, _⟩ | hblock | ⟨_, hrow⟩
  · exact absurd hi hreset
  · obtain ⟨_, _, _, _, hseq, _⟩ := block_fields hblock
    exact .inl hseq
  · rcases hrow with ⟨c, _, rfl⟩ | ⟨p, _, _, _, rfl⟩ | ⟨_, _, rfl⟩ | ⟨hi, k, hk, hretry⟩ | ⟨c, _, rfl⟩ | ⟨f, _, rfl⟩ |
      ⟨c, _, _, rfl⟩ | ⟨sig, _, rfl⟩ | ⟨x, sig, _, rfl⟩
    · exact .inl (deliverBit_sendSeq c s)
    · exact .inl rfl
    · exact .inl (chunkStep_sendSeq s)
    · refine (retryStep_sendSeq hretry).imp_right fun ⟨hnext, hchunk⟩ => ?_
      exact ⟨hnext, fun h8 => hnext.trans (nextSeq_of_width_eight h8 _), hi, ⟨k, hk⟩, hchunk⟩
    · exact .inl rfl
    · exact .inl (transmit_sendSeq f s)
    · exact .inl (onSendRequested_sendSeq c s)
    · exact .inl (sendResponse_sendSeq sig s)
    · exact .inl (onFrameReceived_sendSeq x sig s)

/-! ## The receive sequence counter and the deliveries to the client -/

/-- From `s` to `t` nothing is delivered to the client and `recvSeq` stands. -/
def noDelivery (s t : State) : Prop := t.recvSeq = s.recvSeq ∧ t.clientlog = s.clientlog

/-- From `s` to `t` one payload is delivered to the client and `recvSeq` moves on by one (45 R96). -/
def oneDelivery (s t : State) : Prop :=
  t.recvSeq = nextSeq s.cfg s.recvSeq ∧ ∃ data, t.clientlog = s.clientlog ++ [data]

/-- 45 R91 to R97: the counter and the record of deliveries move together, in the in-sequence branch alone. -/
theorem onFrameReceived_delivery (x : List Byte) (sig : Option Signal) (s : State) :
    noDelivery s (onFrameReceived x sig s) ∨ oneDelivery s (onFrameReceived x sig s) := by
  rcases onFrameReceived_cases x sig s with
    ⟨_, ⟨_, h⟩ | ⟨_, h⟩ | ⟨_, h⟩⟩ | ⟨_, h | h | h | ⟨f, _, _, h⟩ | ⟨data, h⟩⟩ <;> rw [h]
  case inr.inr.inr.inr.inr => exact .inr ⟨rfl, data, rfl⟩
  all_goals exact .inl ⟨rfl, rfl⟩

theorem deliverBit_delivery (c : Bit) (s : State) :
    noDelivery s (deliverBit c s) ∨ oneDelivery s (deliverBit c s) := by
  rcases deliverBit_cases c s with ⟨_, h⟩ | ⟨_, v, _, ⟨_, h⟩ | ⟨_, _, h⟩ | ⟨x, sig, n, _, _, h⟩⟩ <;> rw [h]
  · exact .inl ⟨rfl, rfl⟩
  · exact .inl ⟨rfl, rfl⟩
  · exact .inl ⟨rfl, rfl⟩
  · exact onFrameReceived_delivery x sig { s with bitq := [], rxbuf := (s.rxbuf ++ [v]).drop n }

theorem chunkStep_noDelivery (s : State) : noDelivery s (chunkStep s) := by
  obtain ⟨_, _, hrecv, _, _, _, hclient, _⟩ := chunkStep_frame s
  exact ⟨hrecv, hclient⟩

theorem retryStep_noDelivery {k : Nat} {s t : State} (h : retryStep k s = .next t) : noDelivery s t := by
  obtain ⟨_, _, hrecv, _, _, _, hclient, _⟩ := retryStep_frame h
  exact ⟨hrecv, hclient⟩

/-- Only a DELIVER, or a frame processed by itself, delivers to the client, and then one payload. -/
theorem exec_delivery {i : Instr} {s t : State} (h : exec i s = .next t) (hreset : i ≠ .reset) :
    noDelivery s t ∨ (oneDelivery s t ∧ ((∃ c, i = .deliver c) ∨ ∃ x sig, i = .arqOnFrameReceived x sig)) := by
  rcases exec_effect h with ⟨hi, _⟩ | hblock | ⟨_, hrow⟩
  · exact absurd hi hreset
  · obtain ⟨_, _, _, _, _, hrecv, _, _, _, _, _, _, _, hclient⟩ := block_fields hblock
    exact .inl ⟨hrecv, hclient⟩
  · rcases hrow with ⟨c, hi, rfl⟩ | ⟨p, _, _, _, rfl⟩ | ⟨_, _, rfl⟩ | ⟨_, k, _, hretry⟩ | ⟨c, _, rfl⟩ | ⟨f, _, rfl⟩ |
      ⟨c, _, _, rfl⟩ | ⟨sig, _, rfl⟩ | ⟨x, sig, hi, rfl⟩
    · exact (deliverBit_delivery c s).imp_right fun hone => ⟨hone, .inl ⟨c, hi⟩⟩
    · exact .inl ⟨rfl, rfl⟩
    · exact .inl (chunkStep_noDelivery s)
    · exact .inl (retryStep_noDelivery hretry)
    · exact .inl ⟨rfl, rfl⟩
    · exact .inl ⟨transmit_recvSeq f s, transmit_clientlog f s⟩
    · exact .inl ⟨onSendRequested_recvSeq c s, onSendRequested_clientlog c s⟩
    · exact .inl ⟨sendResponse_recvSeq sig s, sendResponse_clientlog sig s⟩
    · exact (onFrameReceived_delivery x sig s).imp_right fun hone => ⟨hone, .inr ⟨x, sig, hi⟩⟩

/-- Settles O53, row by row (`exec_delivery`). -/
theorem everyDeliveryAdvancesRecvSeq : Obligations.EveryDeliveryAdvancesRecvSeq := by
  intro s t i h hreset
  refine (exec_delivery h hreset).imp_right fun ⟨⟨hnext, hdata⟩, hrow⟩ => ?_
  exact ⟨hnext, fun h8 => hnext.trans (nextSeq_of_width_eight h8 _), hdata, hrow⟩

end Sys2Proof.Machine

/-! Proofs of the statements of 20_memory.md: eight delivered bits are one received byte (O14), the bits of a data frame
deliver its payload at a peer (O58), and the two ends of a link share nothing but bits (O60). -/

namespace Sys2Proof.Machine

/-! ## Bits to a byte -/

theorem deliverBit_short {s : State} (c : Bit) (h : s.bitq.length ≠ 7) :
    deliverBit c s = { s with bitq := s.bitq ++ [c] } := by
  simp only [deliverBit, pushBit_short c h]

theorem deliverBit_eighth {s : State} (c : Bit) (h : s.bitq.length = 7) :
    deliverBit c s = receiveByte (byteOfBits (s.bitq ++ [c])) { s with bitq := [] } := by
  simp only [deliverBit, pushBit_eighth c h]

theorem exec_deliver_of_none {s : State} (hf : s.fault = none) (c : Bit) :
    exec (.deliver c) s = .next (deliverBit c s) :=
  exec_deliver_eq_next.mpr ⟨hf, rfl⟩

theorem runEvents_deliver_cons {s : State} (hf : s.fault = none) (c : Bit) (bits : List Bit) :
    runEvents (deliverEvents (c :: bits)) s = runEvents (deliverEvents bits) (deliverBit c s) := by
  rw [deliverEvents, List.map_cons, runEvents, exec_deliver_of_none hf]
  rfl

theorem runEvents_deliver_append (as bs : List Bit) (s : State) :
    runEvents (deliverEvents (as ++ bs)) s =
      andThen (runEvents (deliverEvents as) s) (runEvents (deliverEvents bs)) := by
  rw [deliverEvents_append, runEvents_append]

/-- 40 R62: bits that complete no byte only lengthen the bit queue. -/
theorem runEvents_deliver_short {bits : List Bit} {s : State} (hf : s.fault = none)
    (h : s.bitq.length + bits.length ≤ 7) :
    runEvents (deliverEvents bits) s = .next { s with bitq := s.bitq ++ bits } := by
  induction bits generalizing s with
  | nil => simp [deliverEvents, runEvents]
  | cons c bits ih =>
    rw [List.length_cons] at h
    have hrest := ih (s := { s with bitq := s.bitq ++ [c] }) hf (by simp; omega)
    rw [runEvents_deliver_cons hf, deliverBit_short c (by omega), hrest, List.append_assoc, List.singleton_append]

/-- Settles O14: the byte's first seven bits fill the queue, and its last makes the byte again
(`byteOfBits_byteBits`). -/
theorem deliveredByteReachesTheBuffer : Obligations.DeliveredByteReachesTheBuffer := by
  intro s v hf hq
  have hbits : byteBits v = (byteBits v).take 7 ++ [v.getLsbD 0] := rfl
  calc runEvents (deliverEvents (byteBits v)) s
      = runEvents (deliverEvents [v.getLsbD 0]) { s with bitq := (byteBits v).take 7 } := by
        rw [hbits, runEvents_deliver_append, runEvents_deliver_short hf (by simp [hq]), hq]
        rfl
    _ = .next (deliverBit (v.getLsbD 0) { s with bitq := (byteBits v).take 7 }) :=
        runEvents_deliver_cons (s := { s with bitq := (byteBits v).take 7 }) hf _ []
    _ = .next (receiveByte v s) := by
        rw [deliverBit_eighth _ rfl, ← hbits, byteOfBits_byteBits, ← hq]

/-! ## Bytes to a frame -/

theorem receiveByte_of_incomplete {s : State} {v : Byte} (hroom : s.cfg.rxBufDepth ≠ some s.rxbuf.length)
    (h : tryExtract s.cfg (s.rxbuf ++ [v]) = .incomplete) :
    receiveByte v s = { s with rxbuf := s.rxbuf ++ [v] } := by
  simp [receiveByte, State.rxbufFull, hroom, scanReceived, h]

theorem receiveByte_of_complete {s : State} {v : Byte} {x : List Byte} {sig : Option Signal} {n : Nat}
    (hroom : s.cfg.rxBufDepth ≠ some s.rxbuf.length) (h : tryExtract s.cfg (s.rxbuf ++ [v]) = .complete x sig n) :
    receiveByte v s = onFrameReceived x sig { s with rxbuf := (s.rxbuf ++ [v]).drop n } := by
  simp [receiveByte, State.rxbufFull, hroom, scanReceived, h]

/-- 43 R77, R83: of a buffer that a COMPLETE scan consumes whole, every shorter beginning scans INCOMPLETE. -/
theorem tryExtract_incomplete_of_append {cfg : Config} {buf rest : List Byte} {x : List Byte} {sig : Option Signal}
    (hrest : rest ≠ []) (h : tryExtract cfg (buf ++ rest) = .complete x sig (buf ++ rest).length) :
    tryExtract cfg buf = .incomplete := by
  cases hbuf : tryExtract cfg buf with
  | incomplete => rfl
  | complete x' sig' n =>
    have hle : n ≤ Scan.begin.i + buf.length := (scanFrom_consumed hbuf).2
    have hwhole : tryExtract cfg (buf ++ rest) = .complete x' sig' n := scanFrom_append hbuf rest
    rw [h, Extract.complete.injEq, List.length_append] at hwhole
    obtain ⟨-, -, hn⟩ := hwhole
    have hpos : 0 < rest.length := List.length_pos_iff.mpr hrest
    simp only [Scan.begin] at hle
    omega

/-- 20 R46, 46 R103: bytes delivered at a byte boundary, which end a frame that the scan consumes whole and that the
receive buffer can hold, leave the buffer empty and have the frame processed. -/
theorem runEvents_deliver_frame {f : List Byte} {s : State} {x : List Byte} {sig : Option Signal}
    (hf : s.fault = none) (hq : s.bitq = []) (hne : f ≠ [])
    (hfits : ∀ d, s.cfg.rxBufDepth = some d → (s.rxbuf ++ f).length ≤ d)
    (hx : tryExtract s.cfg (s.rxbuf ++ f) = .complete x sig (s.rxbuf ++ f).length) :
    runEvents (deliverEvents (frameBits f)) s = .next (onFrameReceived x sig { s with rxbuf := [] }) := by
  induction f generalizing s with
  | nil => exact absurd rfl hne
  | cons b f ih =>
    have hroom : s.cfg.rxBufDepth ≠ some s.rxbuf.length := fun hd => absurd (hfits _ hd) (by simp)
    rw [frameBits_cons, runEvents_deliver_append, deliveredByteReachesTheBuffer s b hf hq]
    simp only [andThen]
    by_cases hlast : f = []
    · subst hlast
      rw [receiveByte_of_complete hroom hx, List.drop_length]
      rfl
    · rw [List.append_cons] at hfits hx
      rw [receiveByte_of_incomplete hroom (tryExtract_incomplete_of_append hlast hx)]
      exact ih hf hq hlast hfits hx

/-! ## The scan of an encoded frame -/

/-- 41 R68: a stuffed payload scans to itself, whatever follows it. -/
theorem scanFrom_stuff (cfg : Config) (sc : Scan) (p rest : List Byte) :
    scanFrom cfg sc (stuff cfg p ++ rest) =
      scanFrom cfg { sc with payload := sc.payload ++ p, i := sc.i + (stuff cfg p).length } rest := by
  induction p generalizing sc with
  | nil => simp [stuff]
  | cons b p ih =>
    by_cases hb : isReserved cfg b = true
    · simp only [stuff, hb, if_true, List.cons_append, scanFrom_escape, ih]
      simp [Scan.takeLiteral, Nat.add_assoc, Nat.add_comm 2]
    · have hdata : classify cfg b sc.st = .data := classify_of_not_mem (mt isReserved_iff.mpr hb) sc.st
      simp only [stuff, hb, Bool.false_eq_true, if_false, List.cons_append, scanFrom_data hdata, ih]
      simp [Scan.takeData, Nat.add_assoc, Nat.add_comm 1]

/-- 43 R84: the decoder takes a whole encoded data frame and gives back SEQ, PARITY and the payload. -/
theorem tryExtract_dataFrame {cfg : Config} (h : cfg.wf) (p : List Byte) {q : Byte} (hq : q ∉ cfg.tags) :
    tryExtract cfg (dataFrame cfg p q) =
      .complete (q :: zext8 (parity p) :: p) none (dataFrame cfg p q).length := by
  simp only [tryExtract, dataFrame, List.cons_append, List.nil_append]
  rw [scanFrom_start h, scanFrom_data (classify_of_not_mem hq _),
    scanFrom_data (classify_of_not_mem (zext8_not_mem h _) _), scanFrom_stuff, scanFrom_stop h]
  simp [Scan.finish, Scan.takeData, Scan.enterFrame, Scan.begin]
  omega

/-! ## A data frame in sequence -/

theorem parityOk_parity (data : List Byte) : parityOk (zext8 (parity data)) data = true := by
  simp [parityOk]

/-- 45 R96: deliver, advance, acknowledge. -/
theorem onFrameReceived_in_sequence (s : State) (data : List Byte) :
    onFrameReceived (s.recvSeq :: zext8 (parity data) :: data) none s =
      { sendResponse .ack { clientReceive data s with recvSeq := nextSeq s.cfg s.recvSeq } with
        pendingSig := none } := by
  simp [onFrameReceived, frameDecision, parityOk_parity, onData, clientReceive, sendResponse, transmit, State.response,
    State.responseSeq]

/-- Settles O58: the frame's bits are its bytes, its bytes are the one frame (`runEvents_deliver_frame`), and that
frame is in sequence. -/
theorem peerReceivesWhatWasSent : Obligations.PeerReceivesWhatWasSent := by
  intro s p hwf hf hq hrx hsig hseq hfits
  have hne : dataFrame s.cfg p s.recvSeq ≠ [] := by simp [dataFrame]
  have hx := tryExtract_dataFrame hwf p hseq
  have hrun := runEvents_deliver_frame hf hq hne (by simpa [hrx] using hfits) (by simpa [hrx] using hx)
  have hdecide := onFrameReceived_in_sequence { s with rxbuf := [] } p
  refine hrun.trans (congrArg Host.Outcome.next (hdecide.trans ?_))
  cases hresp : s.cfg.respSeq <;>
    simp [sendResponse, transmit, clientReceive, State.response, State.responseSeq, hsig, hrx, hresp]

/-! ## The two ends of a link -/

/-- How many bits of an end's output the transport has taken, by end. -/
def Link.taken (l : Link) : Side → Nat
  | .a => l.takenA
  | .b => l.takenB

/-- The transport has taken no more of either end's output than that end has sent. -/
def Link.withinSent (l : Link) : Prop := ∀ side, l.taken side ≤ (l.at side).txlog.length

theorem Link.withinSent_iff (l : Link) :
    l.withinSent ↔ l.takenA ≤ l.a.txlog.length ∧ l.takenB ≤ l.b.txlog.length :=
  ⟨fun h => ⟨h .a, h .b⟩, fun h side => by cases side; exacts [h.1, h.2]⟩

theorem Link.pending_eq (l : Link) (side : Side) : l.pending side = (l.at side).txlog[l.taken side]? := by
  cases side <;> rfl

@[simp] theorem Side.other_other (side : Side) : side.other.other = side := by cases side <;> rfl

theorem Side.eq_or_eq_other (side side' : Side) : side' = side ∨ side' = side.other := by
  cases side <;> cases side' <;> decide

@[simp] theorem Link.put_at (l : Link) (s : State) (side : Side) : (l.put s side).at side = s := by
  cases side <;> rfl

@[simp] theorem Link.put_at_other (l : Link) (s : State) (side : Side) :
    (l.put s side).at side.other = l.at side.other := by
  cases side <;> rfl

@[simp] theorem Link.put_takenA (l : Link) (s : State) (side : Side) : (l.put s side).takenA = l.takenA := by
  cases side <;> rfl

@[simp] theorem Link.put_takenB (l : Link) (s : State) (side : Side) : (l.put s side).takenB = l.takenB := by
  cases side <;> rfl

@[simp] theorem Link.take_at (l : Link) (source side : Side) : (l.take source).at side = l.at side := by
  cases source <;> cases side <;> rfl

theorem Link.take_taken (l : Link) (source side : Side) :
    (l.take source).taken side = l.taken side + if side = source then 1 else 0 := by
  cases source <;> cases side <;> rfl

/-! ## A row at one end -/

/-- What running a row at one end of a link does: that row there, and nothing else. -/
theorem Link.run_effect {l l' : Link} {side : Side} {i : Instr} (h : l.run side i = some l') :
    exec i (l.at side) = .next (l'.at side) ∧ l'.at side.other = l.at side.other ∧
    l'.takenA = l.takenA ∧ l'.takenB = l.takenB := by
  unfold Link.run at h
  split at h
  · next s hs =>
    cases h
    simp [hs]
  · cases h
  · cases h

theorem Link.run_taken {l l' : Link} {side : Side} {i : Instr} (h : l.run side i = some l') (side' : Side) :
    l'.taken side' = l.taken side' := by
  obtain ⟨-, -, ha, hb⟩ := Link.run_effect h
  cases side'
  · exact ha
  · exact hb

/-- 10 R23: the row's end has sent at least what it had sent, and the other end the same. -/
theorem Link.run_withinSent {l l' : Link} {side : Side} {i : Instr} (h : l.run side i = some l')
    (hw : l.withinSent) : l'.withinSent := by
  intro side'
  obtain ⟨hexec, hother, -⟩ := Link.run_effect h
  have hle := hw side'
  rw [Link.run_taken h side']
  rcases Side.eq_or_eq_other side side' with rfl | rfl
  · exact hle.trans (exec_recordsGrow hexec).1.length_le
  · rwa [hother]

/-- A bit is taken only where one is pending, so the count stays within what was sent. -/
theorem Link.take_withinSent {l : Link} {source : Side} {c : Bit} (hc : l.pending source = some c)
    (hw : l.withinSent) : (l.take source).withinSent := by
  intro side
  have hle := hw side
  rw [Link.take_taken, Link.take_at]
  split_ifs with hside
  · subst hside
    rw [Link.pending_eq] at hc
    obtain ⟨hlt, -⟩ := List.getElem?_eq_some_iff.mp hc
    exact hlt
  · exact hle

/-! ## An action on a link -/

section
variable {l l' : Link} {source : Side}

theorem Link.act_pass (h : l.act (.carry source .pass) = some l') :
    ∃ c, l.pending source = some c ∧ (l.take source).run source.other (.deliver c) = some l' := by
  cases hc : l.pending source with
  | none => simp [Link.act, hc] at h
  | some c => exact ⟨c, rfl, by simpa [Link.act, hc] using h⟩

theorem Link.act_corrupt (h : l.act (.carry source .corrupt) = some l') :
    ∃ c, l.pending source = some c ∧ (l.take source).run source.other (.deliver !c) = some l' := by
  cases hc : l.pending source with
  | none => simp [Link.act, hc] at h
  | some c => exact ⟨c, rfl, by simpa [Link.act, hc] using h⟩

theorem Link.act_lose (h : l.act (.carry source .lose) = some l') :
    ∃ c, l.pending source = some c ∧ l' = l.take source := by
  cases hc : l.pending source with
  | none => simp [Link.act, hc] at h
  | some c => exact ⟨c, rfl, by simpa [Link.act, hc] using h.symm⟩

/-- Everything an action can be: the transport takes a pending bit or none, and then one row runs at one end or none. -/
theorem Link.act_cases {x : LinkAction} (h : l.act x = some l') :
    ∃ m, (m = l ∨ ∃ source c, l.pending source = some c ∧ m = l.take source) ∧
      (l' = m ∨ ∃ side i, m.run side i = some l') := by
  match x with
  | .here side i => exact ⟨l, .inl rfl, .inr ⟨side, i, h⟩⟩
  | .carry source .pass =>
    obtain ⟨c, hc, hrun⟩ := Link.act_pass h
    exact ⟨_, .inr ⟨source, c, hc, rfl⟩, .inr ⟨_, _, hrun⟩⟩
  | .carry source .corrupt =>
    obtain ⟨c, hc, hrun⟩ := Link.act_corrupt h
    exact ⟨_, .inr ⟨source, c, hc, rfl⟩, .inr ⟨_, _, hrun⟩⟩
  | .carry source .lose =>
    obtain ⟨c, hc, rfl⟩ := Link.act_lose h
    exact ⟨_, .inr ⟨source, c, hc, rfl⟩, .inl rfl⟩
  | .carry source (.insert c) => exact ⟨l, .inl rfl, .inr ⟨_, _, h⟩⟩

/-- 60 R122: an action changes one end by a row, or no end at all. -/
theorem Link.act_ends {x : LinkAction} (h : l.act x = some l') (side : Side) :
    l'.at side = l.at side ∨
    (l'.at side.other = l.at side.other ∧ ∃ i, exec i (l.at side) = .next (l'.at side)) := by
  obtain ⟨m, htake, hrun⟩ := Link.act_cases h
  have hm : ∀ side, m.at side = l.at side := by
    rcases htake with rfl | ⟨source, c, -, rfl⟩ <;> simp
  rcases hrun with rfl | ⟨ran, i, hrun⟩
  · exact .inl (hm side)
  · obtain ⟨hexec, hother, -⟩ := Link.run_effect hrun
    rw [hm] at hexec hother
    rcases Side.eq_or_eq_other ran side with rfl | rfl
    · exact .inr ⟨hother, i, hexec⟩
    · exact .inl hother

theorem Link.act_taken_le {x : LinkAction} (h : l.act x = some l') (side : Side) :
    l.taken side ≤ l'.taken side := by
  obtain ⟨m, htake, hrun⟩ := Link.act_cases h
  have hm : l.taken side ≤ m.taken side := by
    rcases htake with rfl | ⟨source, c, -, rfl⟩ <;> simp [Link.take_taken]
  rcases hrun with rfl | ⟨ran, i, hrun⟩
  · exact hm
  · rwa [Link.run_taken hrun side]

theorem Link.act_withinSent {x : LinkAction} (h : l.act x = some l') (hw : l.withinSent) : l'.withinSent := by
  obtain ⟨m, htake, hrun⟩ := Link.act_cases h
  have hm : m.withinSent := by
    rcases htake with rfl | ⟨source, c, hc, rfl⟩
    · exact hw
    · exact Link.take_withinSent hc hw
  rcases hrun with rfl | ⟨ran, i, hrun⟩
  · exact hm
  · exact Link.run_withinSent hrun hm

/-- 20 R46: the row that a carry runs at the far end, after a bit is taken, leaves the near end alone. -/
theorem Link.carried_effect {i : Instr} (h : (l.take source).run source.other i = some l') :
    l'.at source = l.at source ∧ exec i (l.at source.other) = .next (l'.at source.other) ∧
    l'.takenA = (l.take source).takenA ∧ l'.takenB = (l.take source).takenB := by
  obtain ⟨hexec, hnear, htaken⟩ := Link.run_effect h
  simp only [Link.take_at, Side.other_other] at hexec hnear
  exact ⟨hnear, hexec, htaken⟩

end

/-- Settles O60: each action by the row it runs (`Link.run_effect`, `Link.carried_effect`), and what holds of them all
by `Link.act_cases`. -/
theorem linkEndsShareOnlyBits : Obligations.LinkEndsShareOnlyBits := by
  intro l l' x h
  refine ⟨?_, Link.act_ends h, Link.act_taken_le h .a, Link.act_taken_le h .b, fun hw => ?_⟩
  · match x with
    | .here side i => exact Link.run_effect h
    | .carry source .pass =>
      obtain ⟨c, hc, hrun⟩ := Link.act_pass h
      obtain ⟨hnear, hfar⟩ := Link.carried_effect hrun
      exact ⟨hnear, c, hc, hfar⟩
    | .carry source .corrupt =>
      obtain ⟨c, hc, hrun⟩ := Link.act_corrupt h
      obtain ⟨hnear, hfar⟩ := Link.carried_effect hrun
      exact ⟨hnear, c, hc, hfar⟩
    | .carry source .lose =>
      obtain ⟨c, hc, rfl⟩ := Link.act_lose h
      simp [hc]
    | .carry source (.insert c) =>
      obtain ⟨hexec, hnear, htaken⟩ := Link.run_effect h
      rw [Side.other_other] at hnear
      exact ⟨hnear, hexec, htaken⟩
  · exact (Link.withinSent_iff l').mp (Link.act_withinSent h ((Link.withinSent_iff l).mpr hw))

end Sys2Proof.Machine

/-! Proofs of the statements of 30_encoding.md: the decoder and the encoder agree (O1, O2), what the command port and
the wire port accept (O3, O4), words written out from the tables (O5), and the formats of frames (O38). -/

namespace Sys2Proof.Machine

/-! ## List operands -/

/-- 30 R58: a length, high byte first, and that many bytes are a list operand, and what follows them stays. -/
theorem withList_append (mk : List Byte → Instr) {hi lo : Byte} {p : List Byte}
    (h : p.length = 256 * hi.toNat + lo.toNat) (rest : List Byte) :
    withList mk (hi :: lo :: (p ++ rest)) = .ok (mk p, rest) := by
  simp [withList, ← h]

/-- 30 R58: fewer bytes than the length announces are no list operand. -/
theorem withList_short (mk : List Byte → Instr) {hi lo : Byte} {p : List Byte}
    (h : p.length < 256 * hi.toNat + lo.toNat) : withList mk (hi :: lo :: p) = .error .incompleteWord := by
  simp [withList, Nat.not_le.mpr h]

/-- A word whose last operand is a list: where what precedes the list is `w`, the decoded instruction's word begins
with `w`. -/
theorem withList_word {cfg : Config} {port : Port} {w bs rest : List Byte} {mk : List Byte → Instr} {i : Instr}
    (hmk : ∀ p, (mk p).port = port ∧ encode cfg (mk p) = w ++ encodeList p) (h : withList mk bs = .ok (i, rest)) :
    i.port = port ∧ encode cfg i ++ rest = w ++ bs := by
  obtain ⟨p, -, rfl, rfl⟩ := withList_ok h
  obtain ⟨hport, hword⟩ := hmk p
  exact ⟨hport, by rw [hword, List.append_assoc]⟩

/-! ## The decoder and its check -/

/-- The decoder's answers are those of the port's table that can be presented as a word. -/
theorem decode_eq_ok {cfg : Config} {port : Port} {bs rest : List Byte} {i : Instr} :
    decode cfg port bs = .ok (i, rest) ↔ decodeRaw cfg port bs = .ok (i, rest) ∧ i.wf cfg = true := by
  cases hraw : decodeRaw cfg port bs with
  | error e => simp [decode, hraw]
  | ok d =>
    obtain ⟨j, tail⟩ := d
    by_cases hj : j.wf cfg = true
    · simp only [decode, hraw, hj, if_true, Except.ok.injEq, Prod.mk.injEq]
      exact ⟨fun h => ⟨h, h.1 ▸ hj⟩, And.left⟩
    · simp only [decode, hraw, hj]
      exact ⟨nofun, fun ⟨h, hi⟩ => by cases h; exact absurd hi hj⟩

theorem decode_of_raw_error {cfg : Config} {port : Port} {bs : List Byte} {e : DecodeError}
    (h : decodeRaw cfg port bs = .error e) : decode cfg port bs = .error e := by
  simp only [decode, h]

/-! ## The op bytes of the two command tables (30 R57) -/

/-- The op bytes of kind `event`. -/
def eventCodes : List Byte := [0x00, 0x02, 0x03, 0x10, 0x20]

/-- The op bytes of kind `function`, in the order of their rows. -/
def functionCodes : List Byte :=
  [0x40, 0x48, 0x49, 0x4A, 0x50, 0x51, 0x52, 0x58, 0x60, 0x61, 0x68, 0x69, 0x6A, 0x6B]

/-- DELIVER's pattern 02 under its mask FE is the two codes 02 and 03. -/
theorem deliver_code_iff {op : Byte} : op &&& 0xFE = 0x02 ↔ op = 0x02 ∨ op = 0x03 := by
  revert op; decide

/-- 30 R58: an op byte that is no event code is refused at the command port. -/
theorem decodeEvent_of_not_code {op : Byte} (h : op ∉ eventCodes) (rest : List Byte) :
    decodeEvent (op :: rest) = .error (.notAnEventCode op) := by
  simp only [eventCodes, List.mem_cons, List.not_mem_nil, or_false, not_or] at h
  obtain ⟨hreset, hzero, hone, hsend, hstep⟩ := h
  have hdeliver : ¬ op &&& 0xFE = 0x02 := fun hd => (deliver_code_iff.mp hd).elim hzero hone
  simp only [decodeEvent, hreset, hdeliver, hsend, hstep, if_false]

/-- An op byte that is no function code is refused at the function port. -/
theorem decodeFunction_of_not_code {op : Byte} (h : op ∉ functionCodes) (rest : List Byte) :
    decodeFunction (op :: rest) = .error (.notAFunctionCode op) := by
  simp only [functionCodes, List.mem_cons, List.not_mem_nil, or_false, not_or] at h
  simp only [decodeFunction, h, if_false]

/-! ## The byte classes at the wire port (30 R52) -/

/-- 30 R56: every byte at the wire port begins a word, and the word is the encoding of the row it is read as. -/
theorem decodeWire_cons (cfg : Config) (b : Byte) (bs : List Byte) :
    ∃ i rest, decodeWire cfg (b :: bs) = .ok (i, rest) ∧ i.port = .wire ∧ i.wf cfg = true ∧
      encode cfg i ++ rest = b :: bs := by
  simp only [decodeWire]
  split_ifs with hesc hack hnack hstop hstart
  · subst hesc
    cases bs with
    | nil => exact ⟨_, _, rfl, rfl, rfl, rfl⟩
    | cons v bs => exact ⟨_, _, rfl, rfl, rfl, rfl⟩
  · exact ⟨_, _, rfl, rfl, rfl, by rw [hack]; rfl⟩
  · exact ⟨_, _, rfl, rfl, rfl, by rw [hnack]; rfl⟩
  · exact ⟨_, _, rfl, rfl, rfl, by rw [hstop]; rfl⟩
  · exact ⟨_, _, rfl, rfl, rfl, by rw [hstart]; rfl⟩
  · have hdata : b ∉ cfg.tags := not_mem_tags.mpr ⟨hstart, hstop, hesc, hack, hnack⟩
    exact ⟨_, _, rfl, rfl, decide_eq_true hdata, rfl⟩

/-- A wire row's word is read back, since the tags are distinct (00 R6); after a lone ESCAPE nothing may follow
(43 R75). -/
theorem decodeWire_encode {cfg : Config} (hcfg : cfg.wf) {i : Instr} (hport : i.port = .wire) (hi : i.wf cfg = true)
    (rest : List Byte) (hrest : i = .wireEscape none → rest = []) :
    decodeWire cfg (encode cfg i ++ rest) = .ok (i, rest) := by
  -- The names' letters: S START, P STOP, E ESCAPE, A RESPONSE (ACK), N NRESPONSE (NACK).
  obtain ⟨hSP, hSE, hSA, hSN, hPE, hPA, hPN, hEA, hEN, hAN⟩ := tags_distinct hcfg
  cases i with
  | wireEscape next =>
    cases next with
    | none => simp [encode, decodeWire, hrest rfl]
    | some v => simp [encode, decodeWire]
  | wireSignalAck => simp [encode, decodeWire, hEA.symm]
  | wireSignalNack => simp [encode, decodeWire, hEN.symm, hAN.symm]
  | wireStop => simp [encode, decodeWire, hPE, hPA, hPN]
  | wireStart => simp [encode, decodeWire, hSE, hSA, hSN, hSP]
  | wireData v =>
    obtain ⟨hS, hP, hE, hA, hN⟩ := not_mem_tags.mp (of_decide_eq_true hi)
    simp [encode, decodeWire, hE, hA, hN, hP, hS]
  | _ => cases hport

/-! ## Decoding an encoded word -/

/-- A well-formed list operand has a 16-bit length. -/
theorem fitsLength_iff {bs : List Byte} : fitsLength bs = true ↔ bs.length < 65536 := decide_eq_true_iff

/-- The events of 30 R57: the op byte selects the row, and its operands are read back. -/
theorem decodeEvent_encode {cfg : Config} {i : Instr} (hport : i.port = .event) (hi : i.wf cfg = true)
    (rest : List Byte) : decodeEvent (encode cfg i ++ rest) = .ok (i, rest) := by
  cases i with
  | reset | step => rfl
  | deliver c => cases c <;> rfl
  | send p => exact withList_encodeList .send rest (fitsLength_iff.mp hi)
  | _ => cases hport

/-- The functions of 30 R57, their one-byte operands before their list (log entry 7). -/
theorem decodeFunction_encode {cfg : Config} {i : Instr} (hport : i.port = .function) (hi : i.wf cfg = true)
    (rest : List Byte) : decodeFunction (encode cfg i ++ rest) = .ok (i, rest) := by
  cases i with
  | escIsReserved b | arqRetryStep => rfl
  | baPush c => cases c <;> rfl
  | escClassify b st => cases st <;> rfl
  | feEncodeResponse sig q => cases sig <;> rfl
  | arqSendResponse sig => cases sig <;> rfl
  | escStuff p => exact withList_encodeList .escStuff rest (fitsLength_iff.mp hi)
  | feTransmit f => exact withList_encodeList .feTransmit rest (fitsLength_iff.mp hi)
  | fdTryExtract buf => exact withList_encodeList .fdTryExtract rest (fitsLength_iff.mp hi)
  | pcParity bs => exact withList_encodeList .pcParity rest (fitsLength_iff.mp hi)
  | pcCheck r data => exact withList_encodeList (.pcCheck r) rest (fitsLength_iff.mp hi)
  | feEncode p q =>
    exact withList_encodeList (.feEncode · q) rest (fitsLength_iff.mp (Bool.and_eq_true_iff.mp hi).1)
  | arqOnSendRequested c =>
    exact withList_encodeList .arqOnSendRequested rest (fitsLength_iff.mp (Bool.and_eq_true_iff.mp hi).1)
  | arqOnFrameReceived x sig =>
    have hlist := withList_encodeList (.arqOnFrameReceived · sig) rest (fitsLength_iff.mp hi)
    match sig with
    | none | some .ack | some .nack => exact hlist
  | _ => cases hport

/-- 30 R52, R57, R58: a well-formed instruction's word decodes to it, and what follows the word stays; only a lone
ESCAPE must have nothing after it. -/
theorem decode_encode {cfg : Config} (hcfg : cfg.wf) {i : Instr} (hi : i.wf cfg = true) (rest : List Byte)
    (hrest : i = .wireEscape none → rest = []) : decode cfg i.port (encode cfg i ++ rest) = .ok (i, rest) := by
  refine decode_eq_ok.mpr ⟨?_, hi⟩
  cases hport : i.port with
  | event => exact decodeEvent_encode hport hi rest
  | function => exact decodeFunction_encode hport hi rest
  | wire => exact decodeWire_encode hcfg hport hi rest hrest

/-- Settles O1: `decode_encode`, with nothing after the word and with any rest. -/
theorem decodeOfEncodeIsTheInstruction : Obligations.DecodeOfEncodeIsTheInstruction := by
  intro cfg i hcfg hi
  constructor
  · simpa using decode_encode hcfg hi [] fun _ => rfl
  · exact fun hne rest => decode_encode hcfg hi rest fun h => absurd h hne

/-! ## Encoding a decoded word -/

/-- What the command port takes is the word of an event. -/
theorem decodeEvent_word {cfg : Config} {bs rest : List Byte} {i : Instr} (h : decodeEvent bs = .ok (i, rest)) :
    i.port = .event ∧ encode cfg i ++ rest = bs := by
  cases bs with
  | nil => cases h
  | cons op r =>
    have hop : op ∈ eventCodes := by
      by_contra hop
      rw [decodeEvent_of_not_code hop] at h
      cases h
    simp only [eventCodes, List.mem_cons, List.not_mem_nil, or_false] at hop
    rcases hop with rfl | rfl | rfl | rfl | rfl
    · cases h; exact ⟨rfl, rfl⟩
    · cases h; exact ⟨rfl, rfl⟩
    · cases h; exact ⟨rfl, rfl⟩
    · exact withList_word (w := [0x10]) (fun _ => ⟨rfl, rfl⟩) h
    · cases h; exact ⟨rfl, rfl⟩

/-- What the function port takes is the word of a function, op byte by op byte in the order of `functionCodes`. -/
theorem decodeFunction_word {cfg : Config} {bs rest : List Byte} {i : Instr}
    (h : decodeFunction bs = .ok (i, rest)) : i.port = .function ∧ encode cfg i ++ rest = bs := by
  cases bs with
  | nil => cases h
  | cons op r =>
    have hop : op ∈ functionCodes := by
      by_contra hop
      rw [decodeFunction_of_not_code hop] at h
      cases h
    simp only [functionCodes, List.mem_cons, List.not_mem_nil, or_false] at hop
    rcases hop with rfl | rfl | rfl | rfl | rfl | rfl | rfl | rfl | rfl | rfl | rfl | rfl | rfl | rfl
    · obtain ⟨b, r, rfl, h⟩ := withByte_ok h
      obtain ⟨c, hc, h⟩ := except_map_ok h
      cases h; exact ⟨rfl, by rw [bitOperand_ok hc]; rfl⟩
    · obtain ⟨b, r, rfl, h⟩ := withByte_ok h
      cases h; exact ⟨rfl, rfl⟩
    · exact withList_word (w := [0x49]) (fun _ => ⟨rfl, rfl⟩) h
    · obtain ⟨b, r, rfl, h⟩ := withByte_ok h
      obtain ⟨t, r, rfl, h⟩ := withByte_ok h
      obtain ⟨st, hst, h⟩ := except_map_ok h
      cases h; exact ⟨rfl, by rw [scanStateOperand_ok hst]; rfl⟩
    · obtain ⟨q, r, rfl, h⟩ := withByte_ok h
      exact withList_word (w := [0x50, q]) (mk := (.feEncode · q)) (fun _ => ⟨rfl, rfl⟩) h
    · obtain ⟨t, r, rfl, h⟩ := withByte_ok h
      obtain ⟨q, r, rfl, h⟩ := withByte_ok h
      obtain ⟨sig, hsig, h⟩ := except_map_ok h
      cases h; exact ⟨rfl, by rw [signalOperand_ok hsig]; rfl⟩
    · exact withList_word (w := [0x52]) (fun _ => ⟨rfl, rfl⟩) h
    · exact withList_word (w := [0x58]) (fun _ => ⟨rfl, rfl⟩) h
    · exact withList_word (w := [0x60]) (fun _ => ⟨rfl, rfl⟩) h
    · obtain ⟨q, r, rfl, h⟩ := withByte_ok h
      exact withList_word (w := [0x61, q]) (fun _ => ⟨rfl, rfl⟩) h
    · exact withList_word (w := [0x68]) (fun _ => ⟨rfl, rfl⟩) h
    · cases h; exact ⟨rfl, rfl⟩
    · obtain ⟨t, r, rfl, h⟩ := withByte_ok h
      obtain ⟨sig, hsig, h⟩ := except_map_ok h
      cases h; exact ⟨rfl, by rw [signalOperand_ok hsig]; rfl⟩
    · obtain ⟨t, r, rfl, h⟩ := withByte_ok h
      obtain ⟨sig, hsig, h⟩ := except_bind_ok h
      rw [frameSignalOperand_ok hsig]
      exact withList_word (w := [0x6B, encodeFrameSignal sig]) (fun _ => ⟨rfl, rfl⟩) h

/-- What the wire port takes is the word of a byte class. -/
theorem decodeWire_word {cfg : Config} {bs rest : List Byte} {i : Instr} (h : decodeWire cfg bs = .ok (i, rest)) :
    i.port = .wire ∧ encode cfg i ++ rest = bs := by
  cases bs with
  | nil => cases h
  | cons b bs =>
    obtain ⟨i', rest', h', hport, -, hword⟩ := decodeWire_cons cfg b bs
    cases h.symm.trans h'
    exact ⟨hport, hword⟩

/-- What a port takes is the word of a row of its own format. -/
theorem decodeRaw_word {cfg : Config} {port : Port} {bs rest : List Byte} {i : Instr}
    (h : decodeRaw cfg port bs = .ok (i, rest)) : i.port = port ∧ encode cfg i ++ rest = bs := by
  cases port with
  | event => exact decodeEvent_word h
  | function => exact decodeFunction_word h
  | wire => exact decodeWire_word h

/-- Settles O2: the check keeps what can be presented, and each port's table is read back by the encoder. -/
theorem encodeOfDecodeIsTheWord : Obligations.EncodeOfDecodeIsTheWord := by
  intro cfg port bs rest i h
  obtain ⟨hraw, hi⟩ := decode_eq_ok.mp h
  obtain ⟨hport, hword⟩ := decodeRaw_word hraw
  exact ⟨hport, hi, hword⟩

/-! ## The command port -/

/-- 60 R124: bytes that are no word of their port have no step. -/
theorem step_of_decode_error {s : State} {e : DecodeError} (hne : s.stream ≠ [])
    (h : decode s.cfg s.port s.stream = .error e) : step s = .refused (.badWord e) := by
  cases hs : s.stream with
  | nil => exact absurd hs hne
  | cons b bs => rw [hs] at h; simp only [step, nextOffer, hs, h]

/-- Settles O3: each event code by its row of the decoder, SEND by its list operand. -/
theorem commandPortAcceptsOnlyWholeEventWords : Obligations.CommandPortAcceptsOnlyWholeEventWords := by
  refine ⟨fun cfg rest => ⟨rfl, rfl, rfl, rfl⟩, fun cfg op rest hop => ?_, fun cfg hi lo p rest hp => ?_,
    fun cfg hi lo p hp => ?_, fun cfg hi => ⟨rfl, rfl⟩, fun s e => step_of_decode_error⟩
  · exact decode_of_raw_error (decodeEvent_of_not_code hop rest)
  · have hfits : p.length < 65536 := by have := hi.isLt; have := lo.isLt; omega
    exact decode_eq_ok.mpr ⟨withList_append .send hp rest, fitsLength_iff.mpr hfits⟩
  · exact decode_of_raw_error (withList_short .send hp)

/-! ## The wire port -/

/-- 43 R75 to R79: every byte class has an action in any state, and it leaves the words still offered. -/
theorem exec_wire_answers {i : Instr} (h : i.port = .wire) (s : State) :
    answers (exec i s) fun t => t.stream = s.stream := by
  cases i with
  | wireEscape next => cases next <;> exact ⟨_, rfl, rfl⟩
  | wireSignalAck | wireSignalNack | wireStop | wireStart | wireData => exact ⟨_, rfl, rfl⟩
  | _ => cases h

/-- Every word holds a byte. -/
theorem encode_ne_nil (cfg : Config) (i : Instr) : encode cfg i ≠ [] := by
  cases i with
  | wireEscape next => cases next <;> exact List.cons_ne_nil _ _
  | _ => exact List.cons_ne_nil _ _

/-- Settles O4: the bytes begin a wire row's word (`decodeWire_cons`), a step runs that row, and the row answers; what
it took is the row's word. -/
theorem wirePortRefusesNoByte : Obligations.WirePortRefusesNoByte := by
  intro s hport hne
  obtain ⟨b, bs, hs⟩ := List.exists_cons_of_ne_nil hne
  obtain ⟨i, rest, hraw, hwire, hi, hword⟩ := decodeWire_cons s.cfg b bs
  have hdecode : decode s.cfg s.port s.stream = .ok (i, rest) := by
    rw [hport, hs]; exact decode_eq_ok.mpr ⟨hraw, hi⟩
  obtain ⟨t, hexec, hstream⟩ := exec_wire_answers hwire { s with stream := rest }
  refine ⟨t, (stepRunsTheWordOffered s i rest hdecode).trans hexec, (encode s.cfg i).length, ?_, ?_⟩
  · exact List.length_pos_iff.mpr (encode_ne_nil s.cfg i)
  · rw [hstream, hs, ← hword, List.drop_left]

/-! ## Words of the tables -/

/-- Settles O5, word by word. -/
theorem wordsOfTheTableDecode : Obligations.WordsOfTheTableDecode :=
  ⟨rfl, rfl, rfl, rfl, rfl, rfl, rfl, rfl⟩

/-! ## Frame formats -/

/-- 41 R65: stuffing adds one ESCAPE for each tag of the payload. -/
theorem stuff_length (cfg : Config) (p : List Byte) :
    (stuff cfg p).length = p.length + p.countP (fun b => decide (b ∈ cfg.tags)) := by
  induction p with
  | nil => rfl
  | cons b p ih =>
    by_cases hb : b ∈ cfg.tags
    · simp [stuff, isReserved_iff.mpr hb, hb, ih]; omega
    · simp [stuff, mt isReserved_iff.mp hb, hb, ih]; omega

theorem zext8_eq_zero_or_one (c : Bit) : zext8 c = 0x00 ∨ zext8 c = 0x01 := by
  cases c
  · exact .inl rfl
  · exact .inr rfl

/-- 30 R48: between PARITY and STOP stands the stuffed payload, and nothing else. -/
theorem dataFrame_payload (cfg : Config) (p : List Byte) (q : Byte) :
    ((dataFrame cfg p q).drop 3).dropLast = stuff cfg p :=
  List.dropLast_concat

theorem dataFrame_getLast? (cfg : Config) (p : List Byte) (q : Byte) :
    (dataFrame cfg p q).getLast? = some cfg.stop :=
  List.getLast?_concat

/-- Settles O38: a data frame by its three first bytes, its stuffed payload and its STOP; a response frame is written
out by its definition, with its parity computed at the default tags. -/
theorem frameFormats : Obligations.FrameFormats := by
  refine ⟨fun cfg p q => ⟨?_, rfl, rfl, rfl, zext8_eq_zero_or_one _, dataFrame_payload cfg p q,
    dataFrame_getLast? cfg p q⟩, fun cfg q => ⟨rfl, rfl, fun sig => rfl⟩, fun q => ⟨rfl, rfl⟩⟩
  rw [dataFrame_length, stuff_length, Nat.add_assoc]

end Sys2Proof.Machine

/-! Proofs of the statements of 40_bit_assembler.md: the bit phase counts the DELIVERs (O15), eight pushed bits are a byte
whose first bit is the most significant (O10), and BA.PUSH as a row (O11). -/

namespace Sys2Proof.Machine

/-! ## The bit phase -/

/-- 46 R103: DELIVER leaves in the bit queue what BA.PUSH leaves there, also where it enters a fault. -/
theorem deliverBit_bitq (c : Bit) (s : State) : (deliverBit c s).bitq = (pushBit s.bitq c).1 := by
  rcases deliverBit_cases c s with
    ⟨hshort, h⟩ | ⟨_, v, hpush, ⟨_, h⟩ | ⟨_, _, h⟩ | ⟨x, sig, n, _, _, h⟩⟩ <;> rw [h]
  · rw [pushBit_short c hshort]
  · rw [hpush]
  · rw [hpush]
  · obtain ⟨-, -, -, -, -, -, -, -, -, hbitq, -⟩ :=
      onFrameReceived_frame x sig { s with bitq := [], rxbuf := (s.rxbuf ++ [v]).drop n }
    rw [hbitq, hpush]

/-- A run of DELIVERs that answers has answered its first DELIVER, and the rest from the state that left. -/
theorem runEvents_deliver_cons_eq_next {c : Bit} {bits : List Bit} {s t : State}
    (h : runEvents (deliverEvents (c :: bits)) s = .next t) :
    runEvents (deliverEvents bits) (deliverBit c s) = .next t := by
  obtain ⟨u, hfirst, hrest⟩ := andThen_eq_next.mp h
  obtain ⟨-, rfl⟩ := exec_deliver_eq_next.mp hfirst
  exact hrest

/-- 40 R63 from any bit phase, and whether or not the last DELIVER enters a fault. -/
theorem runEvents_deliver_bitq_length {bits : List Bit} {s t : State} (hs : s.bitq.length ≤ 7)
    (h : runEvents (deliverEvents bits) s = .next t) :
    t.bitq.length = (s.bitq.length + bits.length) % 8 := by
  induction bits generalizing s with
  | nil =>
    cases h
    exact (Nat.mod_eq_of_lt (Nat.lt_succ_of_le hs)).symm
  | cons c bits ih =>
    have hpush : (deliverBit c s).bitq.length = (s.bitq.length + 1) % 8 := by
      rw [deliverBit_bitq, pushBit_queue_length c hs]
    rw [ih (by omega) (runEvents_deliver_cons_eq_next h), hpush, List.length_cons]
    omega

/-- Settles O15: each DELIVER moves the phase on by one (`runEvents_deliver_bitq_length`), here from phase 0. -/
theorem bitPhaseCountsDelivers : Obligations.BitPhaseCountsDelivers := by
  intro bits s t hq h _
  have hlength := runEvents_deliver_bitq_length (by simp [hq]) h
  rwa [hq, List.length_nil, Nat.zero_add] at hlength

/-! ## The value of assembled bits -/

/-- 40 R62: the bit received last is shifted in at the least significant end. -/
theorem byteOfBits_append_singleton (q : List Bit) (c : Bit) :
    byteOfBits (q ++ [c]) = (byteOfBits q).shiftConcat c := by
  have hshift : ∀ v : Byte, v <<< 1 ||| zext8 c = v.shiftConcat c := by
    cases c <;> decide
  rw [byteOfBits, List.foldl_concat, hshift, byteOfBits]

/-- The byte of a list of bits is the number they write in binary, first bit most significant, modulo 256. -/
theorem byteOfBits_toNat (q : List Bit) :
    (byteOfBits q).toNat = Nat.ofDigits 2 (q.reverse.map Bool.toNat) % 256 := by
  induction q using List.reverseRecOn with
  | nil => rfl
  | append_singleton q c ih =>
    rw [byteOfBits_append_singleton, BitVec.toNat_shiftConcat, ih, List.reverse_concat, List.map_cons,
      Nat.ofDigits_cons, Nat.shiftLeft_eq]
    omega

/-- Bits that fit a byte write its value out whole. -/
theorem byteOfBits_toNat_of_length_le {q : List Bit} (h : q.length ≤ 8) :
    (byteOfBits q).toNat = Nat.ofDigits 2 (q.reverse.map Bool.toNat) := by
  have hlt : Nat.ofDigits 2 (q.reverse.map Bool.toNat) < 2 ^ (q.reverse.map Bool.toNat).length :=
    Nat.ofDigits_lt_base_pow_length one_lt_two (List.forall_mem_map.mpr fun c _ => c.toNat_lt)
  have hpow : 2 ^ (q.reverse.map Bool.toNat).length ≤ 256 :=
    Nat.pow_le_pow_right two_pos (by simpa using h : _ ≤ 8)
  rw [byteOfBits_toNat, Nat.mod_eq_of_lt (hlt.trans_le hpow)]

/-- Settles O10: the eighth bit makes the byte that all eight bits write (`byteOfBits_toNat_of_length_le`). -/
theorem pushedBitsMakeBytesMsbFirst : Obligations.PushedBitsMakeBytesMsbFirst := by
  refine ⟨fun q c h => pushBit_short c h, fun c0 c1 c2 c3 c4 c5 c6 c7 => ⟨_, pushBit_eighth c7 rfl, ?_⟩⟩
  rw [byteOfBits_toNat_of_length_le le_rfl]
  simp only [List.cons_append, List.nil_append, List.reverse_cons, List.reverse_nil, List.map_cons, List.map_nil,
    Nat.ofDigits_cons, Nat.ofDigits_nil]
  omega

/-! ## The row -/

/-- Settles O11: without a fault the gate is open, and the row's answer is written out in its definition. -/
theorem baPushCompletes : Obligations.BaPushCompletes :=
  fun _ _ hf => unlessFaulted_of_none hf _

end Sys2Proof.Machine

/-! Proofs of the statements of 41_byte_stuffer_escape_codec.md: reserved bytes and byte classes (O36), stuffing (O37), the
escaping round trip (O39), and the rows that only return a value (O32). -/

namespace Sys2Proof.Machine

/-! ## Byte classes (41 R66) -/

/-- In SEEKING the two signal rows of the priority table never match. -/
theorem classify_seeking (cfg : Config) (b : Byte) :
    classify cfg b .seeking =
      if b = cfg.escape then .esc else if b = cfg.stop then .stopC else if b = cfg.start then .startC else .data := by
  simp [classify]

/-- In IN_FRAME the signal rows may stand after STOP and START: distinct tags match one row each. -/
theorem classify_inFrame {cfg : Config} (h : cfg.wf) (b : Byte) :
    classify cfg b .inFrame =
      if b = cfg.escape then .esc else if b = cfg.stop then .stopC else if b = cfg.start then .startC
      else if b = cfg.response then .sigAck else if b = cfg.nresponse then .sigNack else .data := by
  obtain ⟨hstart_stop, hstart_esc, -, -, hstop_esc, -⟩ := tags_distinct h
  by_cases hesc : b = cfg.escape
  · rw [hesc, classify_escape, if_pos rfl]
  by_cases hstop : b = cfg.stop
  · rw [hstop, classify_stop h, if_neg hstop_esc, if_pos rfl]
  by_cases hstart : b = cfg.start
  · rw [hstart, classify_start h, if_neg hstart_esc, if_neg hstart_stop, if_pos rfl]
  · simp [classify, hesc, hstop, hstart]

/-- Settles O36: the reserved bytes are the tags (`isReserved_iff`), and the classes are read off in each scan state. -/
theorem reservedBytesAndClasses : Obligations.ReservedBytesAndClasses := by
  have hdefault : Config.default.tags.Perm [0x5C, 0x7B, 0x7D, 0x7E, 0x81] := by decide
  refine ⟨fun cfg b => isReserved_iff, fun b => isReserved_iff.trans hdefault.mem_iff, fun cfg b st h => ?_⟩
  cases st with
  | seeking => exact classify_seeking cfg b
  | inFrame => exact classify_inFrame h b

/-! ## Stuffing (41 R65) -/

/-- Stuffing acts byte by byte: a tag is sent behind an ESCAPE, any other byte as it is. -/
theorem stuff_eq_flatMap (cfg : Config) (p : List Byte) :
    stuff cfg p = p.flatMap (fun b => if b ∈ cfg.tags then [cfg.escape, b] else [b]) := by
  induction p with
  | nil => rfl
  | cons b p ih =>
    by_cases hb : b ∈ cfg.tags
    · simp [stuff, isReserved_iff.mpr hb, hb, ih]
    · simp [stuff, mt isReserved_iff.mp hb, hb, ih]

/-- Settles O37: byte by byte (`stuff_eq_flatMap`), and so in length. -/
theorem stuffEscapesExactlyTheReserved : Obligations.StuffEscapesExactlyTheReserved :=
  fun cfg p => ⟨stuff_eq_flatMap cfg p, stuff_length cfg p, stuff_length_le cfg p⟩

/-! ## The escaping round trip (41 R68) -/

/-- Settles O39: the stuffed payload scans to itself (`scanFrom_stuff`), and the STOP ends the scan there. -/
theorem stuffedPayloadScansToItself : Obligations.StuffedPayloadScansToItself := by
  intro cfg sc p rest h
  rw [scanFrom_stuff, scanFrom_stop h, Scan.finish]

/-! ## The rows that only return a value -/

/-- Settles O32: each row answers with its function's value by its definition; FE.ENCODE first asks for the size of its
operand (42 R69). -/
theorem pureFunctionsReturnTheirValue : Obligations.PureFunctionsReturnTheirValue :=
  fun _ => ⟨fun _ => rfl, fun _ => rfl, fun _ _ => rfl, fun _ _ hfits => if_pos hfits,
    fun _ _ hlong => if_neg hlong.not_ge, fun _ _ => rfl, fun _ => rfl, fun _ => rfl, fun _ _ => rfl⟩

end Sys2Proof.Machine

/-! Proof of the statement of 42_frame_encoder.md: FE.TRANSMIT as a row, and where each bit of a frame stands (O33). -/

namespace Sys2Proof.Machine

/-- A byte's bit k in transmit order is its bit 7 - k (20 R32). -/
theorem byteBits_getElem? (b : Byte) {k : Nat} (hk : k < 8) : (byteBits b)[k]? = some (b.getLsbD (7 - k)) := by
  interval_cases k <;> rfl

/-- Bit k of byte j goes out after the 8 bits of each byte before it. -/
theorem frameBits_getElem? {f : List Byte} {j k : Nat} {b : Byte} (hj : f[j]? = some b) (hk : k < 8) :
    (frameBits f)[8 * j + k]? = some (b.getLsbD (7 - k)) := by
  induction f generalizing j with
  | nil => simp at hj
  | cons a f ih =>
    rw [frameBits_cons]
    cases j with
    | zero =>
      obtain rfl : a = b := by simpa using hj
      have hfirst : 8 * 0 + k < (byteBits a).length := by simpa using hk
      rw [List.getElem?_append_left hfirst, Nat.mul_zero, Nat.zero_add, byteBits_getElem? a hk]
    | succ j =>
      have hlater : (byteBits a).length ≤ 8 * (j + 1) + k := by rw [byteBits_length]; omega
      have hshift : 8 * (j + 1) + k - (byteBits a).length = 8 * j + k := by rw [byteBits_length]; omega
      rw [List.getElem?_append_right hlater, hshift, ih (by simpa using hj)]

/-- Settles O33: with no fault the row is `transmit`, and the bits it appends are counted by `frameBits_length` and placed
by `frameBits_getElem?`. -/
theorem transmitAppendsBitsMsbFirst : Obligations.TransmitAppendsBitsMsbFirst :=
  ⟨fun s f hf => unlessFaulted_of_none hf (.next (transmit f s)),
    fun f => ⟨frameBits_length f, fun _ _ _ hj hk => frameBits_getElem? hj hk⟩⟩

end Sys2Proof.Machine

/-! Proofs of the statements of 43_frame_decoder.md: an encoded frame decodes (O40), also behind junk (O43), a scan
completes only on its last byte (O42), and the wire rows are the scan, each by itself (O34) and as a run (O35). -/

namespace Sys2Proof.Machine

/-! ## The frame round trip (43 R84) -/

/-- 43 R76: inside a frame the byte of either signal records that signal. -/
theorem scanFrom_signalByte {cfg : Config} (h : cfg.wf) {sc : Scan} (hst : sc.st = .inFrame) (sig : Signal)
    (rest : List Byte) :
    scanFrom cfg sc (signalByte cfg sig :: rest) = scanFrom cfg (sc.recordSignal sig) rest := by
  cases sig with
  | ack => exact scanFrom_response h hst rest
  | nack => exact scanFrom_nresponse h hst rest

/-- 43 R84: the decoder takes a whole response frame and gives back SEQ, PARITY and the signal. -/
theorem tryExtract_responseFrame {cfg : Config} (h : cfg.wf) (sig : Signal) {q : Byte} (hq : q ∉ cfg.tags) :
    tryExtract cfg (responseFrame cfg sig q) =
      .complete [q, zext8 (parity [signalByte cfg sig])] (some sig) 5 := by
  rw [tryExtract, responseFrame, scanFrom_start h, scanFrom_data (classify_of_not_mem hq _),
    scanFrom_data (classify_of_not_mem (zext8_not_mem h _) _), scanFrom_signalByte h rfl, scanFrom_stop h]
  rfl

/-- Settles O40: the scan of a data frame (`tryExtract_dataFrame`) and that of a response frame. -/
theorem encodedFrameDecodes : Obligations.EncodedFrameDecodes :=
  fun _ p _ h hq => ⟨tryExtract_dataFrame h p hq, fun sig => tryExtract_responseFrame h sig hq⟩

/-! ## The completing byte (43 R83) -/

/-- Settles O42: `scanFrom_completed_by` for a scan that begins with the buffer. -/
theorem completedFrameEmptiesTheBuffer : Obligations.CompletedFrameEmptiesTheBuffer := by
  intro cfg buf b x sig n hinc h
  obtain ⟨hb, hn⟩ := scanFrom_completed_by hinc h
  exact ⟨hb, by simpa [Scan.begin] using hn⟩

/-! ## Junk before a START (43 R79, 70 R135) -/

theorem classify_seeking_data {cfg : Config} {b : Byte} (hesc : b ≠ cfg.escape) (hstop : b ≠ cfg.stop)
    (hstart : b ≠ cfg.start) : classify cfg b .seeking = .data := by
  simp [classify_seeking, hesc, hstop, hstart]

/-- 43 R79: in SEEKING every byte but ESCAPE, STOP and START goes into the payload. -/
theorem scanFrom_junk {cfg : Config} {sc : Scan} (hst : sc.st = .seeking) {junk : List Byte}
    (hjunk : ∀ b ∈ junk, b ≠ cfg.escape ∧ b ≠ cfg.stop ∧ b ≠ cfg.start) (rest : List Byte) :
    scanFrom cfg sc (junk ++ rest) =
      scanFrom cfg { sc with payload := sc.payload ++ junk, i := sc.i + junk.length } rest := by
  induction junk generalizing sc with
  | nil => simp
  | cons b junk ih =>
    obtain ⟨⟨hesc, hstop, hstart⟩, hjunk⟩ := List.forall_mem_cons.mp hjunk
    have hdata : classify cfg b sc.st = .data := hst ▸ classify_seeking_data hesc hstop hstart
    rw [List.cons_append, scanFrom_data hdata, ih (sc := sc.takeData b) hst hjunk]
    simp [Scan.takeData, Nat.add_assoc, Nat.add_comm 1]

/-- 43 R78: START clears nothing, so a data frame is added to whatever the scan holds. -/
theorem scanFrom_dataFrame {cfg : Config} (h : cfg.wf) (sc : Scan) (p : List Byte) {q : Byte} (hq : q ∉ cfg.tags) :
    scanFrom cfg sc (dataFrame cfg p q) =
      .complete (sc.payload ++ q :: zext8 (parity p) :: p) sc.sig (sc.i + (dataFrame cfg p q).length) := by
  rw [dataFrame_length]
  simp only [dataFrame, List.cons_append, List.nil_append]
  rw [scanFrom_start h, scanFrom_data (classify_of_not_mem hq _),
    scanFrom_data (classify_of_not_mem (zext8_not_mem h _) _), scanFrom_stuff, scanFrom_stop h]
  simp [Scan.finish, Scan.takeData, Scan.enterFrame]
  omega

/-- Settles O43: the junk is in the payload when the frame's START comes, and START clears nothing. -/
theorem junkBeforeStartIsMerged : Obligations.JunkBeforeStartIsMerged := by
  intro cfg junk p q h hq hjunk
  rw [tryExtract, scanFrom_junk rfl hjunk, scanFrom_dataFrame h _ p hq]
  simp [Scan.begin]

/-! ## The wire rows (43 R75 to R79) -/

/-- Settles O34: each row's answer is its definition; the signal rows branch on the scan state. -/
theorem wireBytesActOnTheScan : Obligations.WireBytesActOnTheScan := by
  intro s
  refine ⟨fun v => rfl, rfl, fun hst => ?_, fun hst => ?_, rfl, rfl, fun v => rfl⟩
  · simp [exec, execWireSignalAck, execWireSignalNack, signalOrData, hst, scanOn, Scan.recordSignal]
  · simp [exec, execWireSignalAck, execWireSignalNack, signalOrData, hst, scanOn, Scan.takeData]

/-! ## The wire rows run the scan (43 R74) -/

/-- 43 R76, R79: the scan takes a signal byte as its row does, also while SEEKING. -/
theorem scanFrom_signalOrData {cfg : Config} (h : cfg.wf) (sc : Scan) (sig : Signal) (rest : List Byte) :
    scanFrom cfg sc (signalByte cfg sig :: rest) =
      scanFrom cfg (signalOrData sig (signalByte cfg sig) sc) rest := by
  cases hst : sc.st with
  | inFrame => simp only [scanFrom_signalByte h hst, signalOrData, hst]
  | seeking =>
    obtain ⟨-, -, hSA, hSN, -, hPA, hPN, hEA, hEN, -⟩ := tags_distinct h
    have hdata : classify cfg (signalByte cfg sig) sc.st = .data := by
      cases sig
      · exact hst ▸ classify_seeking_data hEA.symm hPA.symm hSA.symm
      · exact hst ▸ classify_seeking_data hEN.symm hPN.symm hSN.symm
    simp only [scanFrom_data hdata, signalOrData, hst]

theorem signalOrData_i (sig : Signal) (b : Byte) (sc : Scan) : (signalOrData sig b sc).i = sc.i + 1 := by
  cases hst : sc.st <;> simp [signalOrData, hst, Scan.recordSignal, Scan.takeData]

/-- 43 R74: the row a wire word is read as takes the scan past the bytes of the word, or ends it with the scan's own
result; the word is then one byte, and a COMPLETE result ends with it. -/
theorem exec_wire_scans {s : State} (hwf : s.cfg.wf) {bs rest : List Byte} {i : Instr}
    (h : decodeWire s.cfg bs = .ok (i, rest)) :
    (∃ sc m, exec i { s with stream := rest } = .next (scanOn sc { s with stream := rest }) ∧
      scanFrom s.cfg s.scan bs = scanFrom s.cfg sc rest ∧ 1 ≤ m ∧ sc.i = s.scan.i + m ∧ rest = bs.drop m) ∨
    (exec i { s with stream := rest } =
        .next (scanEnds (scanFrom s.cfg s.scan bs) { s with stream := rest }) ∧ rest = bs.drop 1 ∧
      ∀ x sig n, scanFrom s.cfg s.scan bs = .complete x sig n → n = s.scan.i + 1) := by
  cases bs with
  | nil => cases h
  | cons b bs =>
    simp only [decodeWire] at h
    split_ifs at h with hesc hack hnack hstop hstart
    · subst hesc
      cases bs with
      | nil =>
        cases h
        have hinc : scanFrom s.cfg s.scan [s.cfg.escape] = .incomplete := by
          simp [scanFrom_cons, classify_escape]
        exact .inr ⟨by rw [hinc]; rfl, rfl, fun _ _ _ h => by simp [hinc] at h⟩
      | cons v bs =>
        cases h
        exact .inl ⟨_, 2, rfl, scanFrom_escape _ _ _ _, by decide, rfl, rfl⟩
    · subst hack; cases h
      exact .inl ⟨_, 1, rfl, scanFrom_signalOrData hwf _ .ack _, le_rfl, signalOrData_i _ _ _, rfl⟩
    · subst hnack; cases h
      exact .inl ⟨_, 1, rfl, scanFrom_signalOrData hwf _ .nack _, le_rfl, signalOrData_i _ _ _, rfl⟩
    · subst hstop; cases h
      rw [scanFrom_stop hwf]
      exact .inr ⟨rfl, rfl, fun _ _ _ h => by cases h; rfl⟩
    · subst hstart; cases h
      exact .inl ⟨_, 1, rfl, scanFrom_start hwf _ _, le_rfl, rfl, rfl⟩
    · cases h
      have hdata : b ∉ s.cfg.tags := not_mem_tags.mpr ⟨hstart, hstop, hesc, hack, hnack⟩
      exact .inl ⟨_, 1, rfl, scanFrom_data (classify_of_not_mem hdata _) _, le_rfl, rfl, rfl⟩

/-- A step at the wire port runs the row of the word at the front, and there is one. -/
theorem step_wire {s : State} (hport : s.port = .wire) (hne : s.stream ≠ []) :
    ∃ i rest, decodeWire s.cfg s.stream = .ok (i, rest) ∧ step s = exec i { s with stream := rest } := by
  obtain ⟨b, bs, hs⟩ := List.exists_cons_of_ne_nil hne
  obtain ⟨i, rest, hraw, -, hi, -⟩ := decodeWire_cons s.cfg b bs
  have hdecode : decode s.cfg s.port s.stream = .ok (i, rest) := by
    rw [hport, hs]; exact decode_eq_ok.mpr ⟨hraw, hi⟩
  exact ⟨i, rest, hs ▸ hraw, stepRunsTheWordOffered s i rest hdecode⟩

/-- 43 R74, from any locals of a scan: stepping through a buffer whose scan completes ends that scan with its result,
with the bytes after the STOP still offered. -/
theorem run_wire_of_complete {s : State} (hwf : s.cfg.wf) (hport : s.port = .wire) {x : List Byte}
    {sig : Option Signal} {n : Nat} (h : scanFrom s.cfg s.scan s.stream = .complete x sig n) :
    ∃ k, 1 ≤ k ∧ s.scan.i + k ≤ n ∧ Sys2Proof.core.run k s =
      .next (scanEnds (.complete x sig n) { s with stream := s.stream.drop (n - s.scan.i) }) := by
  induction hlen : s.stream.length using Nat.strong_induction_on generalizing s with
  | _ len ih =>
    have hne : s.stream ≠ [] := fun hnil => by rw [hnil, scanFrom_nil] at h; cases h
    obtain ⟨i, rest, hword, hstep⟩ := step_wire hport hne
    rcases exec_wire_scans hwf hword with ⟨sc, m, hexec, hscan, hm, hi, hrest⟩ | ⟨hexec, hrest, hlast⟩
    · have hshort : rest.length < len := by
        rw [hrest, List.length_drop, hlen]
        have hpos : 0 < s.stream.length := List.length_pos_iff.mpr hne
        omega
      obtain ⟨k, hk, hkn, hrun⟩ :=
        ih rest.length hshort (s := scanOn sc { s with stream := rest }) hwf hport (hscan.symm.trans h) rfl
      simp only [scanOn_scan, scanOn_stream] at hkn hrun
      have hdrop : rest.drop (n - sc.i) = s.stream.drop (n - s.scan.i) := by
        rw [hrest, List.drop_drop]
        congr 1
        omega
      refine ⟨k + 1, by omega, by omega, ?_⟩
      rw [core_run_next k (hstep.trans hexec), hrun, hdrop]
      rfl
    · obtain rfl := hlast x sig n h
      refine ⟨1, le_rfl, le_rfl, ?_⟩
      rw [core_run_next 0 (hstep.trans hexec), h, hrest, Nat.add_sub_cancel_left]
      rfl

/-- Settles O35: `run_wire_of_complete` from the start of a scan. -/
theorem wireBytesRunTryExtract : Obligations.WireBytesRunTryExtract := by
  intro s x sig n hwf hport hbegin h
  rw [tryExtract, ← hbegin] at h
  obtain ⟨k, hk, hkn, hrun⟩ := run_wire_of_complete hwf hport h
  have hi : s.scan.i = 0 := congrArg Scan.i hbegin
  rw [hi, Nat.zero_add] at hkn
  rw [hi, Nat.sub_zero] at hrun
  exact ⟨k, hk, hkn, hrun⟩

end Sys2Proof.Machine

/-! Proofs of the statements of 44_parity_checker.md: the parity is the oddness of all set bits (O44), so it is linear
in the flipped bits and detects exactly the odd numbers of them (O45). -/

namespace Sys2Proof.Machine

/-! ## The parity of a byte list (44 R85) -/

theorem parity_eq_count (bs : List Byte) : parity bs = decide ((frameBits bs).count true % 2 = 1) := by
  rw [parity, setBits_eq_count]

theorem parity_eq_false_iff (bs : List Byte) : parity bs = false ↔ (frameBits bs).count true % 2 = 0 := by
  rw [parity_eq_count, decide_eq_false_iff_not]
  exact Nat.mod_two_ne_one

theorem parity_eq_bodd (bs : List Byte) : parity bs = ((frameBits bs).count true).bodd :=
  (parity_eq_count bs).trans (Nat.testBit_zero _).symm

/-- The bytes in another order are sent as the same bits in another order. -/
theorem frameBits_perm {bs cs : List Byte} (h : bs.Perm cs) : (frameBits bs).Perm (frameBits cs) :=
  h.flatMap_right byteBits

theorem parity_perm {bs cs : List Byte} (h : bs.Perm cs) : parity bs = parity cs := by
  rw [parity_eq_count, parity_eq_count, (frameBits_perm h).count_eq]

/-- Settles O44: the set bits are the 1s among the bits sent (`setBits_eq_count`), and `parity_perm`. -/
theorem parityIsTheOddnessOfAllBits : Obligations.ParityIsTheOddnessOfAllBits :=
  fun bs => ⟨parity_eq_count bs, fun _ h => (parity_perm h).symm⟩

/-! ## The parity of flipped data (44 R87) -/

theorem bodd_count_true_cons (x : Bit) (xs : List Bit) :
    ((x :: xs).count true).bodd = xor x (xs.count true).bodd := by
  cases x <;> simp

/-- The oddness of the 1s is the exclusive or of all bits (`bodd_count_true_cons`), so it is linear in flips. -/
theorem bodd_count_true_zipWith_xor {xs ys : List Bit} (h : xs.length = ys.length) :
    ((List.zipWith xor xs ys).count true).bodd = xor (xs.count true).bodd (ys.count true).bodd := by
  induction xs generalizing ys with
  | nil =>
    obtain rfl : ys = [] := List.length_eq_zero_iff.mp h.symm
    rfl
  | cons x xs ih =>
    cases ys with
    | nil => cases h
    | cons y ys =>
      rw [List.zipWith_cons_cons, bodd_count_true_cons, bodd_count_true_cons, bodd_count_true_cons,
        ih (Nat.succ.inj h), Bool.xor_assoc, Bool.xor_assoc, Bool.xor_left_comm y]

theorem byteBits_xor (a b : Byte) : byteBits (a ^^^ b) = List.zipWith xor (byteBits a) (byteBits b) := by
  simp [byteBits]

/-- Bytes are flipped bit by bit, each at its place in the frame. -/
theorem frameBits_zipWith_xor (as bs : List Byte) :
    frameBits (List.zipWith (· ^^^ ·) as bs) = List.zipWith xor (frameBits as) (frameBits bs) := by
  induction as generalizing bs with
  | nil => rfl
  | cons a as ih =>
    cases bs with
    | nil => exact List.zipWith_nil_right.symm
    | cons b bs =>
      rw [List.zipWith_cons_cons, frameBits_cons, frameBits_cons, frameBits_cons, ih, byteBits_xor,
        List.zipWith_append (by rw [byteBits_length, byteBits_length])]

/-- The parity of flipped data is the parity of the data, changed by the parity of the flips. -/
theorem parity_zipWith_xor {data flips : List Byte} (h : flips.length = data.length) :
    parity (List.zipWith (· ^^^ ·) data flips) = xor (parity data) (parity flips) := by
  have hlen : (frameBits data).length = (frameBits flips).length := by
    rw [frameBits_length, frameBits_length, h]
  rw [parity_eq_bodd, frameBits_zipWith_xor, bodd_count_true_zipWith_xor hlen, ← parity_eq_bodd, ← parity_eq_bodd]

/-! ## The check of a parity byte (44 R86) -/

theorem parityOk_iff {r : Byte} {data : List Byte} : parityOk r data = true ↔ r = zext8 (parity data) :=
  decide_eq_true_iff

theorem zext8_inj {c d : Bit} : zext8 c = zext8 d ↔ c = d := by
  cases c <;> cases d <;> decide

/-- Settles O45: a byte passes only as the parity's own (`parityOk_iff`), and flips keep the parity exactly when their
own parity is 0 (`parity_zipWith_xor`). -/
theorem parityDetectsOddFlips : Obligations.ParityDetectsOddFlips := by
  intro r data flips hlen hok
  obtain rfl : r = zext8 (parity data) := parityOk_iff.mp hok
  constructor
  · have hsame : xor (parity data) (parity flips) = xor (parity data) false ↔ parity flips = false :=
      Bool.xor_right_inj
    rw [parityOk_iff, zext8_inj, parity_zipWith_xor hlen, ← parity_eq_false_iff, ← hsame, Bool.xor_false, eq_comm]
  · intro r' hr'
    exact Bool.eq_false_iff.mpr (mt parityOk_iff.mp hr')

end Sys2Proof.Machine

/-! Proofs of the statements of 45_arq_state_machine.md: what the ARQ rows do (O18, O19, O20, O24 to O30), at most one
response for a received bit or frame (O31), `recvSeq` as a count of deliveries (O54), and no fault of the machine from
the invariant (O57). -/

namespace Sys2Proof.Machine

/-! ## The send side (45 R88, R89) -/

/-- Settles O18: without a fault, and for a chunk that fits a frame, the row is `onSendRequested`. -/
theorem onSendRequestedStoresAndTransmits : Obligations.OnSendRequestedStoresAndTransmits := by
  intro s c hf hc
  have hfits : ifFitsFrame c s (.next (onSendRequested c s)) = .next (onSendRequested c s) := if_pos hc
  exact (unlessFaulted_of_none hf _).trans hfits

theorem retryStep_retransmits {k : Nat} {s : State} {f : List Byte} (hk : k < s.cfg.maxAttempts)
    (hack : s.ackStatus ≠ .acked) (hstored : s.lastFrameSent = some f) :
    retryStep k s = .next (transmit f { s with seqr := .attempted (k + 1) }) := by
  simp only [retryStep, hk, hack, hstored, ne_eq, not_false_eq_true, and_self, if_true]

theorem retryStep_advances {k : Nat} {s : State} (h : s.cfg.maxAttempts ≤ k ∨ s.ackStatus = .acked) :
    retryStep k s = .next { s with sendSeq := nextSeq s.cfg s.sendSeq, seqr := .chunk } :=
  if_neg fun ⟨hk, hack⟩ => h.elim hk.not_ge hack

/-- The machine's one fault: a retransmission with no stored frame (log entry 12). -/
theorem retryStep_eq_fault {k : Nat} {s : State} {r : Fault} :
    retryStep k s = .fault r ↔ k < s.cfg.maxAttempts ∧ s.ackStatus ≠ .acked ∧ s.lastFrameSent = none := by
  by_cases hagain : k < s.cfg.maxAttempts ∧ s.ackStatus ≠ .acked
  · cases r
    cases hstored : s.lastFrameSent <;> simp [retryStep, hagain, hstored]
  · rw [← and_assoc]
    simp [retryStep, hagain]

/-- In ATTEMPTED(k) STEP and ARQ.RETRY_STEP are the same iteration. -/
theorem exec_of_attempted {i : Instr} {k : Nat} {s : State} (hi : i = .step ∨ i = .arqRetryStep)
    (hf : s.fault = none) (hk : s.seqr = .attempted k) : exec i s = retryStep k s := by
  rcases hi with rfl | rfl
  · simp only [exec, execStep, unlessFaulted_of_none hf, hk]
  · simp only [exec, execArqRetryStep, unlessFaulted_of_none hf, hk]

theorem nextSeq_toNat {cfg : Config} (h : cfg.wf) (q : Byte) :
    (nextSeq cfg q).toNat = (q.toNat + 1) % 2 ^ cfg.seqWidth :=
  seqAfter_toNat h q 1

/-- Settles O19: both rows are the retry iteration, which has these two branches. -/
theorem retryStepRetransmitsOrAdvances : Obligations.RetryStepRetransmitsOrAdvances := by
  intro s k i hi hf hk
  rw [exec_of_attempted hi hf hk]
  exact ⟨fun _ => retryStep_retransmits, retryStep_advances, fun h8 => nextSeq_of_width_eight h8 _,
    fun hwf => nextSeq_toNat hwf _⟩

/-- Settles O20: outside ATTEMPTED(k) by the row's definition, without a stored frame by `retryStep_eq_fault`. -/
theorem retryStepStopsOutsideItsRule : Obligations.RetryStepStopsOutsideItsRule := by
  intro s hf
  constructor
  · rintro (hidle | hchunk)
    · simp only [exec, execArqRetryStep, unlessFaulted_of_none hf, hidle]
    · simp only [exec, execArqRetryStep, unlessFaulted_of_none hf, hchunk]
  · intro k hk hlt hack hnone
    rw [exec_of_attempted (.inr rfl) hf hk, exec_of_attempted (.inl rfl) hf hk]
    exact and_self_iff.mpr (retryStep_eq_fault.mpr ⟨hlt, hack, hnone⟩)

/-! ## Responses (45 R90) -/

/-- Settles O24: without a fault the row is `sendResponse`. -/
theorem sendResponseStoresAndTransmits : Obligations.SendResponseStoresAndTransmits :=
  fun s sig hf => unlessFaulted_of_none hf (.next (sendResponse sig s))

/-! ## The receive side, branch by branch (45 R91) -/

theorem exec_arqOnFrameReceived_of_none {s : State} (hf : s.fault = none) (x : List Byte) (sig : Option Signal) :
    exec (.arqOnFrameReceived x sig) s = .next (onFrameReceived x sig s) :=
  unlessFaulted_of_none hf _

theorem onFrameReceived_runt {x : List Byte} (h : x.length < 2) (sig : Option Signal) (s : State) :
    onFrameReceived x sig s = onRunt s := by
  match x with
  | [] | [_] => rfl
  | _ :: _ :: _ => simp at h

/-- After the runt test the signal stands while the frame is decided on, and is consumed then. -/
theorem onFrameReceived_fields (q r : Byte) (data : List Byte) (sig : Option Signal) (s : State) :
    onFrameReceived (q :: r :: data) sig s =
      { frameDecision q r data { s with pendingSig := sig } with pendingSig := none } := rfl

theorem frameDecision_parity_failure (q : Byte) {r : Byte} {data : List Byte} (h : r ≠ zext8 (parity data))
    (s : State) : frameDecision q r data s = sendResponse .nack s :=
  if_neg (mt parityOk_iff.mp h)

section
variable (q : Byte) (data : List Byte) {s : State}

theorem frameDecision_ack (h : s.pendingSig = some .ack) :
    frameDecision q (zext8 (parity data)) data s = { s with ackStatus := .acked } := by
  simp only [frameDecision, parityOk_parity, h, if_true]

theorem frameDecision_nack (h : s.pendingSig = some .nack) :
    frameDecision q (zext8 (parity data)) data s = onNack s := by
  simp only [frameDecision, parityOk_parity, h, if_true]

theorem frameDecision_data (h : s.pendingSig = none) :
    frameDecision q (zext8 (parity data)) data s = onData q data s := by
  simp only [frameDecision, parityOk_parity, h, if_true]

end

theorem onData_out_of_sequence {q : Byte} {s : State} (h : q ≠ s.recvSeq) (data : List Byte) :
    onData q data s = sendResponse .nack s :=
  if_neg h

theorem onNack_of_stored {s : State} {f : List Byte} (h : s.lastFrameSent = some f) : onNack s = s := by
  simp [onNack, State.noFrameOutstanding, h]

theorem onNack_retransmits {s : State} {f : List Byte} (h : s.lastFrameSent = none)
    (hresp : s.lastResponseFrame = some f) : onNack s = transmit f s := by
  simp [onNack, State.noFrameOutstanding, h, hresp]

theorem onNack_of_no_response {s : State} (h : s.lastResponseFrame = none) : onNack s = s := by
  simp [onNack, h]

/-- R95's literal condition does not read the signal. -/
theorem onNack_pendingSig (sig : Option Signal) (s : State) :
    onNack { s with pendingSig := sig } = { onNack s with pendingSig := sig } := by
  cases hstored : s.lastFrameSent <;> cases hresp : s.lastResponseFrame <;>
    simp [onNack, State.noFrameOutstanding, hstored, hresp, transmit]

/-- Settles O25: the runt branch, policy by policy. -/
theorem runtIsHandledAsThePolicySays : Obligations.RuntIsHandledAsThePolicySays := by
  intro s x sig hf hx
  rw [exec_arqOnFrameReceived_of_none hf, onFrameReceived_runt hx]
  cases hpolicy : s.cfg.runtPolicy <;> simp only [onRunt, hpolicy] <;> rfl

/-- Settles O26: `frameDecision_parity_failure`, under any pending signal. -/
theorem parityFailureIsNacked : Obligations.ParityFailureIsNacked := by
  intro s q r data sig hf hr
  rw [exec_arqOnFrameReceived_of_none hf, onFrameReceived_fields, frameDecision_parity_failure q hr]
  rfl

/-- Settles O27: `frameDecision_ack`. -/
theorem ackMarksAcked : Obligations.AckMarksAcked := by
  intro s q data hf
  rw [exec_arqOnFrameReceived_of_none hf, onFrameReceived_fields, frameDecision_ack q data rfl]

/-- Settles O28: `frameDecision_nack`, and the three cases of R95's literal condition. -/
theorem nackRetransmitsOnlyTheLastResponse : Obligations.NackRetransmitsOnlyTheLastResponse := by
  intro s q data hf
  rw [exec_arqOnFrameReceived_of_none hf, onFrameReceived_fields, frameDecision_nack q data rfl, onNack_pendingSig]
  split
  · next f hstored hresp => rw [onNack_retransmits hstored hresp]; rfl
  · next hresp => rw [onNack_of_no_response hresp]
  · next f hstored => rw [onNack_of_stored hstored]

/-- Settles O29: `onFrameReceived_in_sequence`, whose ACK is built after the advance. -/
theorem inSequenceDataIsDeliveredAndAcked : Obligations.InSequenceDataIsDeliveredAndAcked := by
  intro s data hf
  refine ⟨?_, fun h8 => nextSeq_of_width_eight h8 _, fun hwf => nextSeq_toNat hwf _⟩
  rw [exec_arqOnFrameReceived_of_none hf, onFrameReceived_in_sequence]
  rfl

/-- Settles O30: `frameDecision_data`, with a SEQ that is not the one expected. -/
theorem outOfSequenceDataIsNacked : Obligations.OutOfSequenceDataIsNacked := by
  intro s q data hf hq
  rw [exec_arqOnFrameReceived_of_none hf, onFrameReceived_fields, frameDecision_data q data rfl,
    onData_out_of_sequence (s := { s with pendingSig := none }) hq]
  rfl

/-! ## At most one response (45 R98) -/

/-- From `s` to `t` nothing is sent, or one frame, which is then the stored response frame. -/
def atMostOneResponse (s t : State) : Prop :=
  t.txlog = s.txlog ∨ ∃ f, t.lastResponseFrame = some f ∧ t.txlog = s.txlog ++ frameBits f

/-- 45 R91 to R97: every branch sends a new response, retransmits the stored one, or is silent. -/
theorem onFrameReceived_atMostOneResponse (x : List Byte) (sig : Option Signal) (s : State) :
    atMostOneResponse s (onFrameReceived x sig s) := by
  rcases onFrameReceived_cases x sig s with
    ⟨_, ⟨_, h⟩ | ⟨_, h⟩ | ⟨_, h⟩⟩ | ⟨_, h | h | h | ⟨f, _, hstored, h⟩ | ⟨data, h⟩⟩ <;> rw [h]
  · exact .inr ⟨_, rfl, rfl⟩
  · exact .inl rfl
  · exact .inl rfl
  · exact .inr ⟨_, rfl, rfl⟩
  · exact .inl rfl
  · exact .inl rfl
  · exact .inr ⟨f, hstored, rfl⟩
  · exact .inr ⟨_, rfl, rfl⟩

/-- A received bit sends something only through the frame it completes. -/
theorem deliverBit_atMostOneResponse (c : Bit) (s : State) : atMostOneResponse s (deliverBit c s) := by
  rcases deliverBit_cases c s with ⟨_, h⟩ | ⟨_, v, _, ⟨_, h⟩ | ⟨_, _, h⟩ | ⟨x, sig, n, _, _, h⟩⟩ <;> rw [h]
  · exact .inl rfl
  · exact .inl rfl
  · exact .inl rfl
  · exact onFrameReceived_atMostOneResponse x sig { s with bitq := [], rxbuf := (s.rxbuf ++ [v]).drop n }

/-- Settles O31: a received bit (`deliverBit_atMostOneResponse`) and a received frame. -/
theorem atMostOneResponsePerFrame : Obligations.AtMostOneResponsePerFrame := by
  rintro s t i (⟨c, rfl⟩ | ⟨x, sig, rfl⟩) h
  · obtain ⟨-, rfl⟩ := exec_deliver_eq_next.mp h
    exact deliverBit_atMostOneResponse c s
  · obtain ⟨-, h⟩ := unlessFaulted_eq_next.mp h
    cases h
    exact onFrameReceived_atMostOneResponse x sig s

/-! ## Deliveries counted (45 R99) -/

/-- From `s` to `t` the client gets `n` payloads, and `recvSeq` moves on by `n`. -/
def countsDeliveries (n : Nat) (s t : State) : Prop :=
  t.clientlog.length = s.clientlog.length + n ∧ t.recvSeq = seqAfter s.cfg s.recvSeq n

theorem countsDeliveries_zero {s t : State} (hwidth : s.recvSeq.toNat < 2 ^ s.cfg.seqWidth) (h : noDelivery s t) :
    countsDeliveries 0 s t := by
  obtain ⟨hrecv, hclient⟩ := h
  exact ⟨congrArg List.length hclient, hrecv.trans (seqAfter_zero hwidth).symm⟩

theorem countsDeliveries_one {s t : State} (h : oneDelivery s t) : countsDeliveries 1 s t := by
  obtain ⟨hnext, data, hclient⟩ := h
  exact ⟨by simp [hclient], hnext⟩

theorem countsDeliveries_add {m n : Nat} {s t u : State} (hwf : s.cfg.wf) (hcfg : t.cfg = s.cfg)
    (hst : countsDeliveries m s t) (htu : countsDeliveries n t u) : countsDeliveries (m + n) s u := by
  obtain ⟨hlen, hseq⟩ := hst
  obtain ⟨hlen', hseq'⟩ := htu
  refine ⟨by omega, ?_⟩
  rw [hseq', hcfg, hseq, seqAfter_seqAfter hwf]

theorem countsDeliveries_width {n : Nat} {s t : State} (hwf : s.cfg.wf) (h : countsDeliveries n s t) :
    t.recvSeq.toNat < 2 ^ s.cfg.seqWidth := by
  obtain ⟨-, hseq⟩ := h
  exact hseq ▸ seqAfter_lt hwf _ n

theorem exec_countsDeliveries {i : Instr} {s t : State} (hwidth : s.recvSeq.toNat < 2 ^ s.cfg.seqWidth)
    (hreset : i ≠ .reset) (h : exec i s = .next t) : ∃ n, countsDeliveries n s t := by
  rcases exec_delivery h hreset with hnone | ⟨hone, -⟩
  · exact ⟨0, countsDeliveries_zero hwidth hnone⟩
  · exact ⟨1, countsDeliveries_one hone⟩

/-- A run without a RESET counts what its rows count. -/
theorem runEvents_countsDeliveries {is : List Instr} {s t : State} (hwf : s.cfg.wf)
    (hwidth : s.recvSeq.toNat < 2 ^ s.cfg.seqWidth) (hreset : .reset ∉ is) (h : runEvents is s = .next t) :
    ∃ n, countsDeliveries n s t := by
  induction is generalizing s with
  | nil =>
    cases h
    exact ⟨0, countsDeliveries_zero hwidth ⟨rfl, rfl⟩⟩
  | cons i is ih =>
    obtain ⟨u, hfirst, hrest⟩ := andThen_eq_next.mp h
    have hi : i ≠ .reset := (List.ne_of_not_mem_cons hreset).symm
    have his : .reset ∉ is := List.not_mem_of_not_mem_cons hreset
    have hcfg : u.cfg = s.cfg := exec_cfg hfirst
    obtain ⟨m, hm⟩ := exec_countsDeliveries hwidth hi hfirst
    obtain ⟨n, hn⟩ := ih (hcfg ▸ hwf) (hcfg ▸ countsDeliveries_width hwf hm) his hrest
    exact ⟨m + n, countsDeliveries_add hwf hcfg hm hn⟩

/-- Settles O54: the count of `runEvents_countsDeliveries` is what the client's record has grown by. -/
theorem recvSeqCountsDeliveries : Obligations.RecvSeqCountsDeliveries := by
  intro is s t hwf hwidth hreset h
  obtain ⟨n, hlen, hseq⟩ := runEvents_countsDeliveries hwf hwidth hreset h
  obtain rfl : n = t.clientlog.length - s.clientlog.length := by omega
  refine ⟨by omega, ?_, fun h8 => ?_⟩
  · rw [hseq, seqAfter_toNat hwf]
  · rw [hseq, seqAfter_of_width_eight h8]

/-! ## No fault of the machine (45 R89, log entries 12, 13) -/

theorem ifFitsFrame_eq_fault {p : List Byte} {s : State} {a : Answer} {r : Fault} :
    ifFitsFrame p s a = .fault r ↔ p.length ≤ s.cfg.maxFrameSize ∧ a = .fault r := by
  by_cases h : p.length ≤ s.cfg.maxFrameSize <;> simp [ifFitsFrame, h]

/-- Only the retry iteration can stop the machine. -/
theorem exec_eq_fault {i : Instr} {s : State} {r : Fault} (h : exec i s = .fault r) :
    ∃ k, s.seqr = .attempted k ∧ retryStep k s = .fault r := by
  cases i with
  | step | arqRetryStep =>
    obtain ⟨-, h⟩ := unlessFaulted_eq_fault.mp h
    cases hk : s.seqr with
    | attempted k => simp only [hk] at h; exact ⟨k, rfl, h⟩
    | idle | chunk => simp [hk] at h
  | deliver | baPush | feTransmit | arqSendResponse | arqOnFrameReceived =>
    obtain ⟨-, h⟩ := unlessFaulted_eq_fault.mp h
    cases h
  | send =>
    obtain ⟨-, h⟩ := unlessFaulted_eq_fault.mp h
    split_ifs at h
  | arqOnSendRequested =>
    obtain ⟨-, h⟩ := unlessFaulted_eq_fault.mp h
    obtain ⟨-, h⟩ := ifFitsFrame_eq_fault.mp h
    cases h
  | feEncode =>
    obtain ⟨-, h⟩ := ifFitsFrame_eq_fault.mp h
    cases h
  | wireEscape next => cases next <;> cases h
  | _ => cases h

/-- The invariant stores a frame for every attempt, so no row faults. -/
theorem exec_ne_fault {s : State} (hs : s.Inv) (i : Instr) (r : Fault) : exec i s ≠ .fault r := by
  intro h
  obtain ⟨k, hk, hretry⟩ := exec_eq_fault h
  obtain ⟨-, -, hnone⟩ := retryStep_eq_fault.mp hretry
  obtain ⟨-, -, hsome⟩ := hs.attempt_legal k hk
  simp [hnone] at hsome

/-- Settles O57: a step that faults is a row that faults, from a state with the same block (`inv_of_block_eq`). -/
theorem noStepFaultsFromTheInvariant : Obligations.NoStepFaultsFromTheInvariant := by
  intro s r hs h
  unfold step at h
  split at h
  · next i rest _ =>
    have htaken : ({ s with stream := rest } : State).Inv := inv_of_block_eq hs rfl
    exact exec_ne_fault htaken i r h
  · exact exec_ne_fault hs .step r h
  · cases h
  · cases h

end Sys2Proof.Machine

/-! Proofs of the statements of 46_link_layer_framer.md: when the four events are enabled (O8) and what a step does with
nothing offered (O7), DELIVER (O12) and its frame (O13), SEND (O16), STEP in CHUNK (O17), the send side's frame (O21),
the STEPs a SEND still needs (O23), and the cost of a synchronous SEND (O22). -/

namespace Sys2Proof.Machine

/-! ## Enabling conditions (46 R101) -/

theorem exec_step_of_chunk {s : State} (hf : s.fault = none) (hchunk : s.seqr = .chunk) :
    exec .step s = .next (chunkStep s) := by
  simp only [exec, execStep, unlessFaulted_of_none hf, hchunk]

/-- Where an attempt has its stored frame (45 R89), no row stops the machine. -/
theorem exec_ne_fault_of_stored {s : State} (hstored : ∀ k, s.seqr = .attempted k → s.lastFrameSent ≠ none)
    (i : Instr) (r : Fault) : exec i s ≠ .fault r := by
  intro h
  obtain ⟨k, hk, hretry⟩ := exec_eq_fault h
  obtain ⟨-, -, hnone⟩ := retryStep_eq_fault.mp hretry
  exact hstored k hk hnone

/-- A retry iteration with its stored frame has one of its two branches to take. -/
theorem retryStep_answers (k : Nat) {s : State} (hstored : s.lastFrameSent ≠ none) :
    ∃ t, retryStep k s = .next t := by
  obtain ⟨f, hf⟩ := Option.ne_none_iff_exists'.mp hstored
  by_cases hagain : k < s.cfg.maxAttempts ∧ s.ackStatus ≠ .acked
  · obtain ⟨hk, hack⟩ := hagain
    exact ⟨_, retryStep_retransmits hk hack hf⟩
  · exact ⟨_, if_neg hagain⟩

theorem exec_step_enabled_iff {s : State} (hstored : ∀ k, s.seqr = .attempted k → s.lastFrameSent ≠ none) :
    (∃ t, exec .step s = .next t) ↔ s.fault = none ∧ s.seqr ≠ .idle := by
  constructor
  · rintro ⟨t, h⟩
    obtain ⟨hf, ⟨hchunk, -⟩ | ⟨k, hk, -⟩⟩ := exec_step_cases h
    · exact ⟨hf, by simp [hchunk]⟩
    · exact ⟨hf, by simp [hk]⟩
  · rintro ⟨hf, hbusy⟩
    cases hq : s.seqr with
    | idle => exact absurd hq hbusy
    | chunk => exact ⟨_, exec_step_of_chunk hf hq⟩
    | attempted k =>
      rw [exec_of_attempted (.inl rfl) hf hq]
      exact retryStep_answers k (hstored k hq)

/-- An answer that is no fault is a next state exactly under the enabling condition, and else a refusal. -/
theorem next_or_refused {a : Answer} {P : Prop} [Decidable P] (hfault : ∀ r, a ≠ .fault r)
    (hnext : (∃ t, a = .next t) ↔ P) : if P then ∃ t, a = .next t else ∃ r, a = .refused r := by
  split
  · next hp => exact hnext.mpr hp
  · next hp =>
    cases a with
    | next t => exact absurd (hnext.mp ⟨t, rfl⟩) hp
    | fault r => exact absurd rfl (hfault r)
    | refused r => exact ⟨r, rfl⟩

/-- Settles O8: no event stops the machine (`exec_ne_fault_of_stored`), and each has a next state exactly under its
condition. -/
theorem eventsAreEnabledAsTheTableSays : Obligations.EventsAreEnabledAsTheTableSays := by
  intro s hstored
  have hfault := exec_ne_fault_of_stored hstored
  refine ⟨⟨_, rfl⟩, fun c => next_or_refused (hfault _) ?_, fun p => next_or_refused (hfault _) ?_,
    next_or_refused (hfault _) (exec_step_enabled_iff hstored)⟩
  · simp [exec_deliver_eq_next]
  · simp [exec_send_eq_next]

theorem stepEnabled_iff {s : State} : s.stepEnabled = true ↔ s.fault = none ∧ s.seqr ≠ .idle := by
  simp [State.stepEnabled, State.sending]

/-- Settles O7: with an empty stream the offer is the internal STEP or none, as `stepEnabled` says. -/
theorem stepWithNothingOffered : Obligations.StepWithNothingOffered := by
  intro s hs
  rw [← stepEnabled_iff]
  constructor
  · intro henabled
    simp only [step, nextOffer, hs, henabled, if_true]
  · intro hdisabled
    simp only [step, nextOffer, hs, hdisabled, if_false, Bool.false_eq_true]

/-! ## DELIVER (46 R103) -/

theorem receiveByte_of_full {s : State} (v : Byte) (hfull : s.cfg.rxBufDepth = some s.rxbuf.length) :
    receiveByte v s = raiseFault .rxbufOverflow s := by
  simp [receiveByte, State.rxbufFull, hfull]

theorem deliverBit_of_byte {s : State} {c : Bit} {v : Byte} (h : pushBit s.bitq c = ([], some v)) :
    deliverBit c s = receiveByte v { s with bitq := [] } := by
  simp only [deliverBit, h]

/-- Settles O12: a bit that completes no byte (`deliverBit_short`), and the three ends of a received byte. -/
theorem deliverPushesAssemblesAndScans : Obligations.DeliverPushesAssemblesAndScans := by
  intro s c hf
  rw [exec_deliver_of_none hf]
  refine ⟨fun hshort => by rw [deliverBit_short c hshort], fun v hv => ?_⟩
  rw [deliverBit_of_byte hv]
  refine ⟨fun hfull => ?_, fun hroom hinc => ?_, fun x sig n hroom hcomp => ?_⟩
  · rw [receiveByte_of_full (s := { s with bitq := [] }) v hfull]
    rfl
  · rw [receiveByte_of_incomplete (s := { s with bitq := [] }) hroom hinc]
  · rw [receiveByte_of_complete (s := { s with bitq := [] }) hroom hcomp]

/-- What taking a bit never writes: the send side but for `ackStatus`, and what is not the block's. -/
theorem deliverBit_frame (c : Bit) (s : State) :
    let t := deliverBit c s
    t.seqr = s.seqr ∧ t.sendSeq = s.sendSeq ∧ t.sendbuf = s.sendbuf ∧ t.lastFrameSent = s.lastFrameSent ∧
    t.cfg = s.cfg ∧ t.port = s.port ∧ t.stream = s.stream ∧ t.ret = s.ret ∧ t.scan = s.scan := by
  rcases deliverBit_cases c s with ⟨_, h⟩ | ⟨_, v, _, ⟨_, h⟩ | ⟨_, _, h⟩ | ⟨x, sig, n, _, _, h⟩⟩ <;> rw [h]
  · simp
  · simp
  · simp
  · obtain ⟨hseqr, hseq, hbuf, hlast, hcfg, hport, hstream, hret, hscan, -⟩ :=
      onFrameReceived_frame x sig { s with bitq := [], rxbuf := (s.rxbuf ++ [v]).drop n }
    exact ⟨hseqr, hseq, hbuf, hlast, hcfg, hport, hstream, hret, hscan⟩

/-- Settles O13: `deliverBit_frame`. -/
theorem deliverNeverWritesSeqrSendSeqSendbufLastFrameSent :
    Obligations.DeliverNeverWritesSeqrSendSeqSendbufLastFrameSent := by
  intro s t c h
  obtain ⟨-, rfl⟩ := exec_deliver_eq_next.mp h
  exact deliverBit_frame c s

/-! ## SEND and STEP (46 R104, R105) -/

/-- Settles O16: `exec_send_eq_next`. -/
theorem sendQueuesThePayload : Obligations.SendQueuesThePayload :=
  fun _ _ hf hidle hlen => exec_send_eq_next.mpr ⟨hf, hidle, hlen, rfl⟩

theorem chunkStep_of_empty {s : State} (h : s.sendbuf = []) : chunkStep s = { s with seqr := .idle } :=
  if_pos h

theorem chunkStep_of_nonempty {s : State} (h : s.sendbuf ≠ []) :
    chunkStep s =
      { onSendRequested (nextChunk s.cfg s.sendbuf) s with
        sendbuf := afterChunk s.cfg s.sendbuf, seqr := .attempted 1 } :=
  if_neg h

/-- Settles O17: the two branches of `chunkStep`. -/
theorem stepInChunkSendsTheNextChunk : Obligations.StepInChunkSendsTheNextChunk := by
  intro s hf hchunk
  rw [exec_step_of_chunk hf hchunk]
  refine ⟨fun hempty => by rw [chunkStep_of_empty hempty], fun hne => ?_⟩
  rw [chunkStep_of_nonempty hne]
  rfl

/-- Settles O21: STEP is a chunk step or a retry iteration, and each of the three operations has its frame. -/
theorem sendSideLeavesTheReceiveSideAlone : Obligations.SendSideLeavesTheReceiveSideAlone := by
  rintro s t i c (rfl | rfl | rfl) h
  · obtain ⟨-, ⟨-, rfl⟩ | ⟨k, -, hretry⟩⟩ := exec_step_cases h
    · exact chunkStep_frame s
    · exact retryStep_frame hretry
  · obtain ⟨-, k, -, hretry⟩ := exec_arqRetryStep_eq_next.mp h
    exact retryStep_frame hretry
  · obtain ⟨-, h⟩ := unlessFaulted_eq_next.mp h
    obtain ⟨-, h⟩ := ifFitsFrame_eq_next.mp h
    cases h
    simp

/-! ## Chunks left to send (46 R105) -/

theorem wf_maxFrameSize {cfg : Config} (h : cfg.wf) : 1 ≤ cfg.maxFrameSize := by
  obtain ⟨-, -, -, -, -, hsize, -⟩ := h
  exact hsize

theorem chunksLeft_eq_zero_iff {s : State} (hwf : s.cfg.wf) : chunksLeft s = 0 ↔ s.sendbuf = [] := by
  have hsize := wf_maxFrameSize hwf
  rw [chunksLeft, Nat.div_eq_zero_iff_lt hsize, ← List.length_eq_zero_iff]
  omega

/-- Sending a chunk leaves one chunk fewer, also where the chunk is a short one. -/
theorem chunksLeft_afterChunk {s : State} (hwf : s.cfg.wf) (hne : s.sendbuf ≠ []) :
    chunksLeft { s with sendbuf := afterChunk s.cfg s.sendbuf } + 1 = chunksLeft s := by
  have hsize := wf_maxFrameSize hwf
  have hpos : 0 < s.sendbuf.length := List.length_pos_iff.mpr hne
  simp only [chunksLeft, afterChunk, List.length_drop]
  rw [← Nat.add_div_right _ hsize]
  by_cases hlong : s.cfg.maxFrameSize ≤ s.sendbuf.length
  · congr 1
    omega
  · have hrest : s.sendbuf.length - s.cfg.maxFrameSize = 0 := by omega
    rw [hrest, Nat.div_eq_of_lt_le (k := 1) (by omega) (by omega), Nat.div_eq_of_lt_le (k := 1) (by omega) (by omega)]

/-! ## The STEPs still needed (46 R106 to R108) -/

theorem stepBound_of_chunk {s : State} (h : s.seqr = .chunk) :
    stepBound s = (s.cfg.maxAttempts + 1) * chunksLeft s + 1 := by
  simp only [stepBound, h]

theorem stepBound_of_attempted {k : Nat} {s : State} (h : s.seqr = .attempted k) :
    stepBound s = (s.cfg.maxAttempts + 1 - k) + ((s.cfg.maxAttempts + 1) * chunksLeft s + 1) := by
  simp only [stepBound, h]

/-- The bound reads the sequencer, the send buffer and the parameters alone. -/
theorem stepBound_congr {s t : State} (hseqr : t.seqr = s.seqr) (hbuf : t.sendbuf = s.sendbuf)
    (hcfg : t.cfg = s.cfg) : stepBound t = stepBound s := by
  simp only [stepBound, chunksLeft, hseqr, hbuf, hcfg]

/-- The bound counts MAX_ATTEMPTS + 1 STEPs for the chunk, and the first of them is done. -/
theorem stepBound_chunkStep_lt {s : State} (hwf : s.cfg.wf) (hchunk : s.seqr = .chunk) :
    stepBound (chunkStep s) < stepBound s := by
  rw [stepBound_of_chunk hchunk]
  by_cases hempty : s.sendbuf = []
  · rw [chunkStep_of_empty hempty]
    exact Nat.succ_pos _
  · rw [← chunksLeft_afterChunk hwf hempty, chunkStep_of_nonempty hempty, stepBound_of_attempted rfl, Nat.mul_succ]
    simp only [onSendRequested_cfg, chunksLeft]
    omega

/-- A retransmission is one of the attempts left, and the advance ends the loop, which has k ≤ MAX_ATTEMPTS. -/
theorem stepBound_retryStep_lt {k : Nat} {s t : State} (hk : s.seqr = .attempted k) (hle : k ≤ s.cfg.maxAttempts)
    (h : retryStep k s = .next t) : stepBound t < stepBound s := by
  rw [stepBound_of_attempted hk]
  rcases retryStep_cases h with ⟨f, hlt, _, _, rfl⟩ | ⟨_, rfl⟩
  · rw [stepBound_of_attempted rfl]
    simp only [transmit_cfg, chunksLeft, transmit_sendbuf]
    omega
  · rw [stepBound_of_chunk rfl]
    simp only [chunksLeft]
    omega

/-- Settles O23: STEP by its two operations, DELIVER by what the bound reads (`deliverBit_frame`). -/
theorem everyStepNearsCompletion : Obligations.EveryStepNearsCompletion := by
  intro s t hs
  constructor
  · intro h
    obtain ⟨-, ⟨hchunk, rfl⟩ | ⟨k, hk, hretry⟩⟩ := exec_step_cases h
    · exact stepBound_chunkStep_lt hs.cfg_wf hchunk
    · obtain ⟨-, hle, -⟩ := hs.attempt_legal k hk
      exact stepBound_retryStep_lt hk hle hretry
  · intro c h
    obtain ⟨-, rfl⟩ := exec_deliver_eq_next.mp h
    obtain ⟨hseqr, -, hbuf, -, hcfg, -⟩ := deliverBit_frame c s
    exact stepBound_congr hseqr hbuf hcfg

/-! ## A chunk under the synchronous host (46 R106) -/

theorem runEvents_cons_of_next {i : Instr} {is : List Instr} {s t : State} (h : exec i s = .next t) :
    runEvents (i :: is) s = runEvents is t := by
  simp only [runEvents, h, andThen]

theorem runEvents_replicate_add (m n : Nat) (i : Instr) (s : State) :
    runEvents (List.replicate (m + n) i) s =
      andThen (runEvents (List.replicate m i) s) (runEvents (List.replicate n i)) := by
  rw [List.replicate_add, runEvents_append]

/-- 45 R89: while no ACK comes, every STEP up to MAX_ATTEMPTS sends the stored frame once more. -/
theorem runEvents_step_retransmits {n k : Nat} {s : State} {f : List Byte} (hf : s.fault = none)
    (hk : s.seqr = .attempted k) (hle : k + n ≤ s.cfg.maxAttempts) (hack : s.ackStatus ≠ .acked)
    (hstored : s.lastFrameSent = some f) :
    runEvents (List.replicate n .step) s =
      .next { s with txlog := s.txlog ++ (List.replicate n (frameBits f)).flatten, seqr := .attempted (k + n) } := by
  induction n generalizing k s with
  | zero => simp [runEvents, ← hk]
  | succ n ih =>
    have hfirst : exec .step s = .next (transmit f { s with seqr := .attempted (k + 1) }) :=
      (exec_of_attempted (.inl rfl) hf hk).trans (retryStep_retransmits (by omega) hack hstored)
    have hrest := ih (k := k + 1) (s := transmit f { s with seqr := .attempted (k + 1) }) hf rfl
      (by simp only [transmit_cfg]; omega) hack hstored
    rw [List.replicate_succ, runEvents_cons_of_next hfirst, hrest]
    simp [transmit, List.replicate_succ, Nat.add_assoc, Nat.add_comm 1]

/-- The bits that chunk `j` of a payload puts on the line when no ACK comes: its frame, MAX_ATTEMPTS times. -/
def chunkBits (cfg : Config) (p : List Byte) (q : Byte) (j : Nat) : List Bit :=
  (List.replicate cfg.maxAttempts
    (frameBits (dataFrame cfg ((p.drop (j * cfg.maxFrameSize)).take cfg.maxFrameSize) (seqAfter cfg q j)))).flatten

/-- The state when the next chunk has had all its attempts without an ACK. -/
def lastAttempt (s : State) : State :=
  { s with
    sendbuf := afterChunk s.cfg s.sendbuf
    lastFrameSent := some (dataFrame s.cfg (nextChunk s.cfg s.sendbuf) s.sendSeq)
    ackStatus := .awaitingAck
    seqr := .attempted s.cfg.maxAttempts
    txlog := s.txlog ++
      (List.replicate s.cfg.maxAttempts
        (frameBits (dataFrame s.cfg (nextChunk s.cfg s.sendbuf) s.sendSeq))).flatten }

/-- The state in CHUNK again, after the advance that follows (45 R89). -/
def chunkSent (s : State) : State :=
  { lastAttempt s with sendSeq := nextSeq s.cfg s.sendSeq, seqr := .chunk }

/-- 46 R105, 45 R89: attempt 1 and the retransmissions. -/
theorem runEvents_step_attempts {s : State} (hwf : s.cfg.wf) (hf : s.fault = none) (hchunk : s.seqr = .chunk)
    (hne : s.sendbuf ≠ []) :
    runEvents (List.replicate s.cfg.maxAttempts .step) s = .next (lastAttempt s) := by
  obtain ⟨n, hn⟩ := Nat.exists_eq_add_of_le (wf_maxAttempts hwf)
  have hretransmit := runEvents_step_retransmits (n := n) (k := 1)
    (s := { onSendRequested (nextChunk s.cfg s.sendbuf) s with
      sendbuf := afterChunk s.cfg s.sendbuf, seqr := .attempted 1 })
    hf rfl hn.ge nofun rfl
  rw [hn, List.replicate_add, List.replicate_one, List.singleton_append,
    runEvents_cons_of_next (exec_step_of_chunk hf hchunk), chunkStep_of_nonempty hne, hretransmit]
  simp [lastAttempt, onSendRequested, transmit, hn, List.replicate_add]

/-- 46 R106: after MAX_ATTEMPTS attempts one more STEP advances. -/
theorem runEvents_step_chunkSent {s : State} (hwf : s.cfg.wf) (hf : s.fault = none) (hchunk : s.seqr = .chunk)
    (hne : s.sendbuf ≠ []) :
    runEvents (List.replicate (s.cfg.maxAttempts + 1) .step) s = .next (chunkSent s) := by
  have hadvance : exec .step (lastAttempt s) = .next (chunkSent s) :=
    (exec_of_attempted (s := lastAttempt s) (.inl rfl) hf rfl).trans (retryStep_advances (.inl le_rfl))
  rw [runEvents_replicate_add, runEvents_step_attempts hwf hf hchunk hne]
  exact runEvents_cons_of_next hadvance

/-! ## All chunks (46 R106, 70 R131) -/

/-- From `s` in CHUNK to `t` in IDLE the send buffer has gone out as `m` chunks, with no ACK for any of them. -/
def sendCompletes (m : Nat) (s t : State) : Prop :=
  t.seqr = .idle ∧ t.sendbuf = [] ∧ t.sendSeq = seqAfter s.cfg s.sendSeq m ∧
  t.txlog = s.txlog ++ (List.range m).flatMap (chunkBits s.cfg s.sendbuf s.sendSeq)

theorem chunkBits_zero {cfg : Config} {q : Byte} (hq : q.toNat < 2 ^ cfg.seqWidth) (p : List Byte) :
    chunkBits cfg p q 0 = (List.replicate cfg.maxAttempts (frameBits (dataFrame cfg (nextChunk cfg p) q))).flatten := by
  rw [chunkBits, seqAfter_zero hq, Nat.zero_mul, List.drop_zero, nextChunk]

/-- The chunks behind the first one are those of what is left, numbered from the next SEQ. -/
theorem chunkBits_afterChunk {cfg : Config} (h : cfg.wf) (p : List Byte) (q : Byte) (j : Nat) :
    chunkBits cfg (afterChunk cfg p) (nextSeq cfg q) j = chunkBits cfg p q (j + 1) := by
  rw [chunkBits, chunkBits, nextSeq, seqAfter_seqAfter h, afterChunk, List.drop_drop, Nat.succ_mul,
    Nat.add_comm 1, Nat.add_comm cfg.maxFrameSize]

theorem sendCompletes_succ {m : Nat} {s t : State} (hwf : s.cfg.wf) (hwidth : s.sendSeq.toNat < 2 ^ s.cfg.seqWidth)
    (h : sendCompletes m (chunkSent s) t) : sendCompletes (m + 1) s t := by
  obtain ⟨hidle, hempty, hseq, htx⟩ := h
  have hbits : chunkBits s.cfg (afterChunk s.cfg s.sendbuf) (nextSeq s.cfg s.sendSeq) =
      fun j => chunkBits s.cfg s.sendbuf s.sendSeq (j + 1) := funext (chunkBits_afterChunk hwf _ _)
  refine ⟨hidle, hempty, ?_, ?_⟩
  · rw [hseq, Nat.add_comm m]
    exact seqAfter_seqAfter hwf s.sendSeq 1 m
  · simp only [chunkSent, lastAttempt] at htx
    rw [htx, hbits, List.range_succ_eq_map, List.flatMap_cons, List.flatMap_map, chunkBits_zero hwidth,
      List.append_assoc]

/-- 46 R106, by the number of chunks: each takes MAX_ATTEMPTS + 1 STEPs, and the last STEP finds the buffer empty. -/
theorem runEvents_step_sendCompletes {m : Nat} {s : State} (hwf : s.cfg.wf) (hf : s.fault = none)
    (hchunk : s.seqr = .chunk) (hwidth : s.sendSeq.toNat < 2 ^ s.cfg.seqWidth) (hm : chunksLeft s = m) :
    answers (runEvents (List.replicate ((s.cfg.maxAttempts + 1) * m + 1) .step) s) (sendCompletes m s) := by
  induction m generalizing s with
  | zero =>
    have hempty : s.sendbuf = [] := (chunksLeft_eq_zero_iff hwf).mp hm
    refine ⟨{ s with seqr := .idle }, ?_, rfl, hempty, (seqAfter_zero hwidth).symm, (List.append_nil _).symm⟩
    rw [← chunkStep_of_empty hempty]
    exact runEvents_cons_of_next (exec_step_of_chunk hf hchunk)
  | succ m ih =>
    have hne : s.sendbuf ≠ [] := fun hempty => by
      rw [(chunksLeft_eq_zero_iff hwf).mpr hempty] at hm
      cases hm
    have hleft : chunksLeft (chunkSent s) = m := Nat.succ.inj ((chunksLeft_afterChunk hwf hne).trans hm)
    obtain ⟨t, hrun, ht⟩ := ih (s := chunkSent s) hwf hf rfl (nextSeq_lt hwf _) hleft
    refine ⟨t, ?_, sendCompletes_succ hwf hwidth ht⟩
    rw [Nat.mul_succ, Nat.add_comm _ (s.cfg.maxAttempts + 1), Nat.add_assoc, runEvents_replicate_add,
      runEvents_step_chunkSent hwf hf hchunk hne]
    exact hrun

/-- Settles O22: SEND queues the payload in an empty buffer, whose chunks then all go out
(`runEvents_step_sendCompletes`). -/
theorem synchronousSendCost : Obligations.SynchronousSendCost := by
  intro s p hs hf hidle hlen m
  have hsend := sendQueuesThePayload s p hf hidle hlen
  rw [hs.idle_empty hidle, List.nil_append] at hsend
  obtain ⟨t, hrun, hdone, hempty, hseq, htx⟩ :=
    runEvents_step_sendCompletes (m := m) (s := { s with sendbuf := p, seqr := .chunk }) hs.cfg_wf hf rfl
      hs.send_seq_width rfl
  exact ⟨t, (runEvents_cons_of_next hsend).trans hrun, hdone, hempty, hseq,
    fun h8 => hseq.trans (seqAfter_of_width_eight h8 _ _), htx⟩

end Sys2Proof.Machine

/-! Proofs of the statements of 60_exceptions.md: the faulted block takes only RESET (O46) and is frozen (O47), how a
fault is raised (O48), and that the defaults raise none (O49). -/

namespace Sys2Proof.Machine

/-! ## The faulted state (60 R115, R116) -/

/-- Settles O46: the fault closes the gate of the three events (`unlessFaulted_of_some`), and RESET has none. -/
theorem faultedBlockTakesOnlyReset : Obligations.FaultedBlockTakesOnlyReset :=
  fun s _ hf => ⟨fun _ => unlessFaulted_of_some hf _, fun _ => unlessFaulted_of_some hf _, unlessFaulted_of_some hf _,
    resetState s, rfl, resetState_fault s⟩

/-- Settles O47: every row but RESET that writes the block is closed while a fault is set (`exec_effect`). -/
theorem faultFreezesTheBlock : Obligations.FaultFreezesTheBlock := by
  intro s t i hf hreset h
  rcases exec_effect h with ⟨hi, _⟩ | hblock | ⟨hnone, _⟩
  · exact absurd hi hreset
  · exact hblock
  · exact absurd hnone hf

/-! ## Fault entry (60 R114, R115) -/

/-- The faults a DELIVER can raise: the byte it completes overflows the full receive buffer, or ends a runt. -/
theorem deliverBit_fault (c : Bit) {s : State} (hf : s.fault = none) :
    (deliverBit c s).fault = none ∨
    ∃ v, pushBit s.bitq c = ([], some v) ∧
      ((s.cfg.rxBufDepth = some s.rxbuf.length ∧
          deliverBit c s = { s with bitq := [], fault := some .rxbufOverflow }) ∨
       (s.cfg.runtPolicy = .fault ∧ ∃ x sig n, tryExtract s.cfg (s.rxbuf ++ [v]) = .complete x sig n ∧ x.length < 2 ∧
          deliverBit c s = { s with bitq := [], rxbuf := (s.rxbuf ++ [v]).drop n, fault := some .runtFrame })) := by
  rcases deliverBit_cases c s with ⟨_, h⟩ | ⟨_, v, hv, ⟨hfull, h⟩ | ⟨_, _, h⟩ | ⟨x, sig, n, _, hx, h⟩⟩ <;> rw [h]
  · exact .inl hf
  · exact .inr ⟨v, hv, .inl ⟨hfull, rfl⟩⟩
  · exact .inl hf
  · rcases onFrameReceived_fault x sig (s := { s with bitq := [], rxbuf := (s.rxbuf ++ [v]).drop n }) hf with
      hnone | ⟨hrunt, hpolicy, hframe⟩
    · exact .inl hnone
    · exact .inr ⟨v, hv, .inr ⟨hpolicy, x, sig, n, hx, hrunt, hframe⟩⟩

theorem chunkStep_fault (s : State) : (chunkStep s).fault = s.fault := by
  obtain ⟨_, _, _, _, _, hfault, _⟩ := chunkStep_frame s
  exact hfault

theorem retryStep_fault {k : Nat} {s t : State} (h : retryStep k s = .next t) : t.fault = s.fault := by
  obtain ⟨_, _, _, _, _, hfault, _⟩ := retryStep_frame h
  exact hfault

/-- A row that sets a fault takes a bit or processes a frame: no other row writes `fault`, and RESET clears it. -/
theorem exec_raises {i : Instr} {s t : State} (hf : s.fault = none) (h : exec i s = .next t) (ht : t.fault ≠ none) :
    (∃ c, i = .deliver c ∧ t = deliverBit c s) ∨
    (∃ x sig, i = .arqOnFrameReceived x sig ∧ t = onFrameReceived x sig s) := by
  rcases exec_effect h with ⟨_, rfl⟩ | hblock | ⟨_, hrow⟩
  · exact absurd (resetState_fault s) ht
  · obtain ⟨_, _, _, _, _, _, _, _, _, _, _, hfault, _⟩ := block_fields hblock
    exact absurd (hfault.trans hf) ht
  · rcases hrow with hdeliver | ⟨p, _, _, _, rfl⟩ | ⟨_, _, rfl⟩ | ⟨_, k, _, hretry⟩ | ⟨c, _, rfl⟩ | ⟨f, _, rfl⟩ |
      ⟨c, _, _, rfl⟩ | ⟨sig, _, rfl⟩ | hframe
    · exact .inl hdeliver
    · exact absurd hf ht
    · exact absurd ((chunkStep_fault s).trans hf) ht
    · exact absurd ((retryStep_fault hretry).trans hf) ht
    · exact absurd hf ht
    · exact absurd hf ht
    · exact absurd hf ht
    · exact absurd hf ht
    · exact .inr hframe

/-- Settles O48: only two rows raise a fault (`exec_raises`), by `deliverBit_fault` and `onFrameReceived_fault`. -/
theorem faultsAreRaisedAndRecordedAsSpecified : Obligations.FaultsAreRaisedAndRecordedAsSpecified := by
  intro s t i cause hf h ht
  have hraised : t.fault ≠ none := by simp [ht]
  rcases exec_raises hf h hraised with ⟨c, rfl, rfl⟩ | ⟨x, sig, rfl, rfl⟩
  · rcases deliverBit_fault c hf with hnone | ⟨v, hv, ⟨hfull, hs⟩ | ⟨hpolicy, x, sig, n, hx, hrunt, hs⟩⟩
    · exact absurd hnone hraised
    · obtain rfl : FaultCause.rxbufOverflow = cause := by simpa [hs] using ht
      exact .inl ⟨rfl, ⟨c, v, rfl, hv⟩, hfull, hs⟩
    · obtain rfl : FaultCause.runtFrame = cause := by simpa [hs] using ht
      exact .inr ⟨rfl, hpolicy, .inl ⟨c, v, x, sig, n, rfl, hv, hx, hrunt, hs⟩⟩
  · rcases onFrameReceived_fault x sig hf with hnone | ⟨hrunt, hpolicy, hs⟩
    · exact absurd hnone hraised
    · obtain rfl : FaultCause.runtFrame = cause := by simpa [hs] using ht
      exact .inr ⟨rfl, hpolicy, .inr ⟨x, sig, rfl, hrunt, hs⟩⟩

/-! ## No fault under the defaults (60 R113, R114) -/

/-- Both ways into a fault ask for a parameter that `faultFree` excludes. -/
theorem exec_fault_of_faultFree {i : Instr} {s t : State} (hfree : faultFree s.cfg) (hf : s.fault = none)
    (h : exec i s = .next t) : t.fault = none := by
  obtain ⟨hdepth, hpolicy⟩ := hfree
  cases ht : t.fault with
  | none => rfl
  | some cause =>
    rcases faultsAreRaisedAndRecordedAsSpecified s t i cause hf h ht with ⟨_, _, hfull, _⟩ | ⟨_, hrunt, _⟩
    · exact nomatch hdepth.symm.trans hfull
    · exact absurd hrunt hpolicy

/-- Every DELIVER is enabled where no fault is set, and under these parameters none ever is. -/
theorem runEvents_deliver_of_faultFree (bits : List Bit) {s : State} (hfree : faultFree s.cfg) (hf : s.fault = none) :
    answers (runEvents (deliverEvents bits) s) fun t => t.fault = none := by
  induction bits generalizing s with
  | nil => exact ⟨s, rfl, hf⟩
  | cons c bits ih =>
    rw [runEvents_deliver_cons hf]
    exact ih (by rwa [deliverBit_cfg]) (exec_fault_of_faultFree hfree hf (exec_deliver_of_none hf c))

/-- Settles O49: `exec_fault_of_faultFree` for one row, and by induction for a run of DELIVERs. -/
theorem defaultsNeverFault : Obligations.DefaultsNeverFault :=
  ⟨fun _ _ _ => exec_fault_of_faultFree, fun bits _ => runEvents_deliver_of_faultFree bits⟩

end Sys2Proof.Machine

/-! Proofs of the statements of 70_reset_and_hazards.md: the reset values (O9), which meet the invariant (O55), a SEQ
that is a tag (O41), and an ACK between two STEPs (O59). -/

namespace Sys2Proof.Machine

/-! ## Reset (70 R125) -/

/-- Settles O9: the values of power-on at the default parameters, and RESET field by field (`resetState_bitq` and the
laws beside it). -/
theorem resetPutsTheResetState : Obligations.ResetPutsTheResetState :=
  ⟨by decide, fun s => ⟨resetState s, rfl, by simp⟩⟩

theorem default_wf : Config.default.wf := by decide

/-- Settles O55: `powerOn_inv`, also at the default parameters. -/
theorem powerOnMeetsTheInvariant : Obligations.PowerOnMeetsTheInvariant :=
  ⟨fun _ => powerOn_inv, powerOn_inv default_wf⟩

/-! ## A SEQ that is a tag (70 R129) -/

/-- The scan of what follows SEQ in a data frame, from any locals: PARITY and the payload are appended and the STOP ends
the scan. -/
theorem scanFrom_parity_stuff_stop {cfg : Config} (h : cfg.wf) (sc : Scan) (c : Bit) (p : List Byte) :
    scanFrom cfg sc (zext8 c :: (stuff cfg p ++ [cfg.stop])) =
      .complete (sc.payload ++ zext8 c :: p) sc.sig (sc.i + (stuff cfg p).length + 2) := by
  rw [scanFrom_data (classify_of_not_mem (zext8_not_mem h c) _), scanFrom_stuff, scanFrom_stop h]
  simp [Scan.finish, Scan.takeData]
  omega

/-- The scan of a data frame stands IN_FRAME at SEQ. -/
theorem tryExtract_dataFrame_at_seq {cfg : Config} (h : cfg.wf) (p : List Byte) (q : Byte) :
    tryExtract cfg (dataFrame cfg p q) =
      scanFrom cfg Scan.begin.enterFrame (q :: zext8 (parity p) :: (stuff cfg p ++ [cfg.stop])) :=
  scanFrom_start h Scan.begin _

/-- 43 R75: an ESCAPE as SEQ takes PARITY with it as a literal, and the payload follows. -/
theorem tryExtract_dataFrame_escape {cfg : Config} (h : cfg.wf) (p : List Byte) :
    tryExtract cfg (dataFrame cfg p cfg.escape) =
      .complete (zext8 (parity p) :: p) none ((stuff cfg p).length + 4) := by
  rw [tryExtract_dataFrame_at_seq h, scanFrom_escape, scanFrom_stuff, scanFrom_stop h]
  simp [Scan.finish, Scan.takeLiteral, Scan.enterFrame, Scan.begin]
  omega

/-- 43 R76, R78: a START or a signal byte as SEQ appends nothing, and PARITY and the payload follow. -/
theorem tryExtract_dataFrame_of_scan {cfg : Config} (h : cfg.wf) (p : List Byte) {q : Byte} {sc : Scan}
    (hempty : sc.payload = []) (hi : sc.i = 2)
    (hq : ∀ rest, scanFrom cfg Scan.begin.enterFrame (q :: rest) = scanFrom cfg sc rest) :
    tryExtract cfg (dataFrame cfg p q) =
      .complete (zext8 (parity p) :: p) sc.sig ((stuff cfg p).length + 4) := by
  rw [tryExtract_dataFrame_at_seq h, hq, scanFrom_parity_stuff_stop h]
  simp [hempty, hi]
  omega

/-- 43 R77: a STOP as SEQ ends the scan with nothing extracted. -/
theorem tryExtract_dataFrame_stop {cfg : Config} (h : cfg.wf) (p : List Byte) :
    tryExtract cfg (dataFrame cfg p cfg.stop) = .complete [] none 2 := by
  rw [tryExtract_dataFrame_at_seq h, scanFrom_stop h]
  rfl

/-- 43 R79: what a STOP as SEQ leaves unscanned is a frame of its own, read while SEEKING. -/
theorem tryExtract_drop_dataFrame {cfg : Config} (h : cfg.wf) (p : List Byte) (q : Byte) :
    tryExtract cfg ((dataFrame cfg p q).drop 2) =
      .complete (zext8 (parity p) :: p) none ((stuff cfg p).length + 2) := by
  have hrest := scanFrom_parity_stuff_stop h Scan.begin (parity p) p
  simpa [Scan.begin, tryExtract, dataFrame] using hrest

/-- Settles O41, tag by tag: SEQ is in no payload, and what its tag does to the scan shows in the result. -/
theorem seqEqualToATagMisframes : Obligations.SeqEqualToATagMisframes :=
  fun _ d h => ⟨tryExtract_dataFrame_escape h d,
    tryExtract_dataFrame_of_scan h d rfl rfl (scanFrom_start h _),
    tryExtract_dataFrame_of_scan h d rfl rfl (scanFrom_response h rfl),
    tryExtract_dataFrame_of_scan h d rfl rfl (scanFrom_nresponse h rfl),
    tryExtract_dataFrame_stop h d, tryExtract_drop_dataFrame h d _⟩

/-! ## An ACK between two STEPs (70 R133) -/

/-- 45 R94: an ACK frame that passes its check sets ACKED, whatever its SEQ. -/
theorem onFrameReceived_ack (q : Byte) (data : List Byte) (s : State) :
    onFrameReceived (q :: zext8 (parity data) :: data) (some .ack) s =
      { s with ackStatus := .acked, pendingSig := none } := by
  rw [onFrameReceived_fields, frameDecision_ack q data rfl]

/-- The bits of an ACK frame, where RESPONSE has even parity, set ACKED and change nothing else (70 R133). -/
theorem runEvents_deliver_ack {s : State} {q : Byte} (hwf : s.cfg.wf) (hparity : parity [s.cfg.response] = false)
    (hf : s.fault = none) (hq : s.bitq = []) (hrx : s.rxbuf = []) (hsig : s.pendingSig = none)
    (hseq : q ∉ s.cfg.tags) (hfits : ∀ d, s.cfg.rxBufDepth = some d → 5 ≤ d) :
    runEvents (deliverEvents (frameBits (responseFrame s.cfg .ack q))) s = .next { s with ackStatus := .acked } := by
  have hcheck : zext8 (parity [signalByte s.cfg .ack]) = zext8 (parity []) := congrArg zext8 hparity
  have hx : tryExtract s.cfg (responseFrame s.cfg .ack q) = .complete [q, zext8 (parity [])] (some .ack) 5 :=
    hcheck ▸ tryExtract_responseFrame hwf .ack hseq
  have hne : responseFrame s.cfg .ack q ≠ [] := List.cons_ne_nil _ _
  rw [runEvents_deliver_frame hf hq hne (by rwa [hrx]) (by rwa [hrx]), onFrameReceived_ack, ← hrx, ← hsig]

/-- Settles O59: the ACK sets ACKED (`runEvents_deliver_ack`), and in ACKED the retry iteration advances
(`retryStep_advances`). -/
theorem ackEndsTheRetryLoop : Obligations.AckEndsTheRetryLoop := by
  intro s q k hwf hparity hf hq hrx hsig hseq hfits hk
  have hack := runEvents_deliver_ack hwf hparity hf hq hrx hsig hseq hfits
  have hstep := exec_of_attempted (s := { s with ackStatus := .acked }) (.inl rfl) hf hk
  rw [retryStep_advances (.inr rfl)] at hstep
  rw [runEvents_append, hack]
  exact runEvents_cons_of_next hstep

end Sys2Proof.Machine
